-- ==== Sys2Proof/Word.lean ====
section
/-! DEFINITION. The word types of the block and the type of its sparse memories (spec/00_scope.md R5). -/

namespace Sys2Proof

/-- `u8`. -/
abbrev Byte := BitVec 8
/-- `u16`, one ECC granule's data. -/
abbrev Half := BitVec 16
/-- `u32`, the width of every bus access. -/
abbrev Word := BitVec 32
/-- `u64`, a wide granule, a digest, a cipher block. -/
abbrev DWord := BitVec 64
/-- `u128`, a cipher key. -/
abbrev QWord := BitVec 128

/-- A sparse memory: (address, byte) pairs. Its canonical form and its operations are in
`Sys2Proof/Machine/Memory.lean`. -/
abbrev Memory := List Host.Cell

/-- The identity of a life-cycle acknowledgement callback (spec/10_state.md R25; DESIGN CHOICE log 14). -/
abbrev CallbackId := BitVec 32

end Sys2Proof
end

