-- ==== Sys2Proof/Config.lean ====
section
/-! DEFINITION. The configuration the model takes as an argument (spec/00_scope.md R4), as plain data, and the
opaque constants for what the spec leaves free. -/

namespace Sys2Proof

/-- The names of the registers of `REGMAP` (spec/30_encoding.md R101). The partition registers carry the
index of their partition, `errCode` the number `k` of `ERR_CODE_k`. -/
inductive Reg
  | intrState | intrEnable | intrTest | alertTest | status
  | errCode (k : Nat)
  | daiRegwen | daiCmd | daiAddress | daiWdata0 | daiWdata1 | daiRdata0 | daiRdata1
  | checkTriggerRegwen | checkTrigger | checkRegwen | checkTimeout
  | readLock (p : Nat)
  | digest0 (p : Nat)
  | digest1 (p : Nat)
  deriving DecidableEq, Repr

/-- A partition descriptor (spec/20_memory.md R62). -/
structure PartDesc where
  name : String
  byteOffset : Nat
  byteSize : Nat
  digestOffset : Nat
  hwDigest : Bool
  swDigest : Bool
  secret : Bool
  buffered : Bool
  writeLockable : Bool
  readLockable : Bool
  deriving DecidableEq, Repr

/-- `DIGEST_TAIL`, the rule for an odd number of 64-bit words (spec/41_digest.md R176). -/
inductive DigestTail
  | nextBytes
  | duplicate
  deriving DecidableEq, Repr

/-- `CIPHER`: the default PRESENT-128 (spec/41_digest.md R170), or another cipher the spec does not give. -/
inductive CipherChoice
  | present128
  | other
  deriving DecidableEq, Repr

/-- `KEY_DERIVE`: the default chain (spec/45_keyderiv.md R284), or another function the spec does not give. -/
inductive KeyDeriveChoice
  | compressChain
  | other
  deriving DecidableEq, Repr

/-- `LC_STATES`, the enumeration of the life-cycle states (spec/30_encoding.md R121): the names of the programmable
states, each at its index from 0 on, and the index of `INVALID`. Every other 5-bit index is unused. -/
structure LcStates where
  programmable : List String
  invalid : BitVec 5
  deriving DecidableEq, Repr

/-- One member of `KEY_TYPES` with its parameters (spec/45_keyderiv.md R282). The relation
`ENTROPY_WORDS(k) = 4 * KEY_BYTES(k) / 16` of the default derivation (R284) and the bounds of the seed in its partition
are not asked of a configuration; what such a configuration gives is the model's choice (DESIGN CHOICE, log 30, log 31). -/
structure KeyType where
  name : String
  seedPart : Nat
  seedOffset : Nat
  keyBytes : Nat
  nonceWords : Nat
  entropyWords : Nat
  deriving DecidableEq, Repr

/-- `TOKEN_LOC(k) = (q, o)` (spec/44_powerup.md R267). -/
structure TokenLoc where
  part : Nat
  offset : Nat
  deriving DecidableEq, Repr

/-- `HWCFG_LOC(f) = (q, o, n)` (spec/44_powerup.md R266). -/
structure FieldLoc where
  part : Nat
  offset : Nat
  bytes : Nat
  deriving DecidableEq, Repr

/-- The storage image (spec/10_state.md R22). With `eccEnabled = false` there is no ECC region and `ecc` is
neither read nor written (spec/40_ecc.md R160). -/
structure Image where
  eccEnabled : Bool
  data : Memory
  ecc : Memory
  digestIv : DWord
  digestConst : QWord
  deriving DecidableEq, Repr

/-- The configuration (spec/00_scope.md R4). `DAI_DELAY` and `LCI_DELAY` are documentation only and have no
field (spec/70_reset_and_hazards.md R461). -/
structure Config where
  partTable : List PartDesc
  lcPart : Nat
  otpDataSize : Nat
  eccEncMasks : List (BitVec 22)
  cipher : CipherChoice
  digestTail : DigestTail
  defaultDigestIv : DWord
  defaultDigestConst : QWord
  regmap : List (Reg × Nat)
  addrMask : Word
  swWindowBase : Nat
  swWindowSize : Nat
  seedParts : List Nat
  lcStates : LcStates
  lcStateCodec : List (List Half)
  lcCntCodec : List (List Half)
  lcStateOffset : Nat
  lcCntOffset : Nat
  lcStateWords : Nat
  lcCntWords : Nat
  testUnlockLoc : TokenLoc
  testExitLoc : TokenLoc
  rmaLoc : TokenLoc
  tokenBytes : Nat
  secretValidPart : Nat
  deviceIdLoc : FieldLoc
  manufStateLoc : FieldLoc
  debugStateLoc : FieldLoc
  sramIfetchLoc : FieldLoc
  keyTypes : List KeyType
  entropyCap : Nat
  keyDerive : KeyDeriveChoice
  backendWritable : Bool
  initialImage : Image
  deriving DecidableEq, Repr

/-- FREE VALUE (log 4): the outcome `persist_ok` of the `n`-th draw (spec/20_memory.md R72). -/
opaque Config.persistOk : Nat → Bool

/-- FREE VALUE (log 4): the filler entropy word of the `n`-th draw (spec/45_keyderiv.md R280). -/
opaque Config.fillerWord : Nat → Word

/-- FREE VALUE (log 5): what the data byte at an address of the backing file holds after the write-back of the
`n`-th draw failed; the spec does not say (spec/20_memory.md R72). -/
opaque Config.tornData : Nat → Nat → Byte

/-- FREE VALUE (log 5): the same for a byte of the backing file's ECC region. -/
opaque Config.tornEcc : Nat → Nat → Byte

/-- FREE FUNCTION (log 12): the cipher of a configuration whose `CIPHER` is not the default
(spec/41_digest.md R170): key, then plain text. -/
opaque Config.otherCipher : QWord → DWord → DWord

/-- FREE FUNCTION (log 13): `KEY_DERIVE` of a configuration whose choice is not the default
(spec/45_keyderiv.md R284): key-type index, seed bytes, entropy words, IV. That its value has 64 bits, as that of
the default chain, is the model's choice: the spec leaves key widths open (D57, U33; DESIGN CHOICE, log 13). -/
opaque Config.otherKeyDerive : Nat → List Byte → List Word → DWord → DWord

end Sys2Proof
end

