-- ==== Sys2Proof/Machine/Layout.lean ====
section
/-! DEFINITION. What follows from the configuration alone: sizes, slots, the default register layout, `partition_of`,
the static policy predicates, and the invariants of `PART_TABLE`. -/

namespace Sys2Proof

/-- `N_PART` (spec/00_scope.md R4). -/
def Config.nPart (c : Config) : Nat := c.partTable.length
/-- `N_ENTRY` (spec/00_scope.md R4). -/
def Config.nEntry (c : Config) : Nat := c.nPart + 2
/-- `DAI_SLOT` (spec/10_state.md R31). -/
def Config.daiSlot (c : Config) : Nat := c.nPart
/-- `KDI_SLOT` (spec/10_state.md R31). -/
def Config.kdiSlot (c : Config) : Nat := c.nPart + 1
/-- `LC_SLOT`: the error slot of the life-cycle partition (spec/43_lci.md, introduction). -/
def Config.lcSlot (c : Config) : Nat := c.lcPart
/-- `E`, the number of `ERR_CODE` registers (spec/30_encoding.md R101). -/
def Config.nErrRegs (c : Config) : Nat := (c.nEntry + 9) / 10

/-- The descriptor read for an index outside the table; no rule reads one. -/
def emptyDesc : PartDesc :=
  { name := "", byteOffset := 0, byteSize := 0, digestOffset := 0, hwDigest := false, swDigest := false,
    secret := false, buffered := false, writeLockable := false, readLockable := false }

/-- `desc[p]` (spec/20_memory.md R62). -/
def Config.desc (c : Config) (p : Nat) : PartDesc := c.partTable.getD p emptyDesc

/-- `has_digest` (spec/20_memory.md R62). -/
def PartDesc.hasDigest (d : PartDesc) : Bool := d.hwDigest || d.swDigest

/-- The address lies in the partition. -/
def PartDesc.contains (d : PartDesc) (a : Nat) : Bool :=
  decide (d.byteOffset ≤ a) && decide (a < d.byteOffset + d.byteSize)

/-- The addresses of a partition's granules, ascending (spec/44_powerup.md R261). -/
def PartDesc.granules (d : PartDesc) : List Nat := (List.range (d.byteSize / 2)).map fun k => d.byteOffset + 2 * k

/-- `partition_of(a)`: the least index whose partition contains `a` (spec/20_memory.md R64). -/
def Config.partitionOf (c : Config) (a : Nat) : Option Nat := c.partTable.findIdx? fun d => d.contains a

/-- `is_digest_address(p, a)` (spec/20_memory.md R73). -/
def Config.isDigestAddress (c : Config) (p a : Nat) : Bool :=
  (c.desc p).hasDigest && decide (a / 8 * 8 = (c.desc p).digestOffset)

/-- `is_wide_granule(p, a)` (spec/20_memory.md R73). -/
def Config.isWideGranule (c : Config) (p a : Nat) : Bool := (c.desc p).secret || c.isDigestAddress p a

/-- `is_buffered(p)` (spec/20_memory.md R73). -/
def Config.isBuffered (c : Config) (p : Nat) : Bool := (c.desc p).buffered

/-- `is_lc(p)` (spec/20_memory.md R73). -/
def Config.isLc (c : Config) (p : Nat) : Bool := decide (p = c.lcPart)

/-- `LC_WORDS` (spec/10_state.md R25). -/
def Config.lcWords (c : Config) : Nat := (c.desc c.lcPart).byteSize / 2

/-- The storage address of word `i` of the life-cycle partition (spec/43_lci.md R244). It is odd for a partition at an odd
`byte_offset`, which R63 does not exclude though R77 has LCI accesses at even offsets: the model accepts such a table
(DESIGN CHOICE, log 35). -/
def Config.lcAddress (c : Config) (i : Nat) : Nat := (c.desc c.lcPart).byteOffset + 2 * i

/-- `LC_CNT_MAX` (spec/30_encoding.md R123). -/
def Config.lcCntMax (c : Config) : Nat := c.lcCntWords

/-- The default `LC_STATES`: the programmable states are 0 to 20, `INVALID` is 23, 21 and 22 are unused
(spec/30_encoding.md R121; PRESUMED by the spec, log 24). -/
def defaultLcStates : LcStates :=
  { programmable :=
      ["RAW", "TEST_UNLOCKED0", "TEST_LOCKED0", "TEST_UNLOCKED1", "TEST_LOCKED1", "TEST_UNLOCKED2", "TEST_LOCKED2",
       "TEST_UNLOCKED3", "TEST_LOCKED3", "TEST_UNLOCKED4", "TEST_LOCKED4", "TEST_UNLOCKED5", "TEST_LOCKED5",
       "TEST_UNLOCKED6", "TEST_LOCKED6", "TEST_UNLOCKED7", "DEV", "PROD", "PROD_END", "RMA", "SCRAP"]
    invalid := 23#5 }

/-- `s` is the 5-bit index of a programmable state, 0 to 20 by default (spec/30_encoding.md R121, R142). -/
def Config.lcProgrammable (c : Config) (s : Nat) : Bool :=
  decide (s < 32) && decide (s < c.lcStates.programmable.length)

/-- The index of `INVALID` (spec/30_encoding.md R121). -/
def Config.lcInvalid (c : Config) : BitVec 5 := c.lcStates.invalid

/-- The name of a life-cycle state (spec/30_encoding.md R121). -/
def Config.lcStateName (c : Config) (s : BitVec 5) : String :=
  c.lcStates.programmable.getD s.toNat (if s = c.lcInvalid then "INVALID" else "unused")

/-- The indices of the partitions a predicate holds of, ascending. -/
def Config.partsWith (c : Config) (f : PartDesc → Bool) : List Nat :=
  (List.range c.nPart).filter fun p => f (c.desc p)

/-- The register exists for this configuration: `k < E`, `P` read-lockable, `P` with a digest
(spec/30_encoding.md R101). -/
def Config.hasReg (c : Config) : Reg → Bool
  | .errCode k => decide (k < c.nErrRegs)
  | .readLock p => decide (p < c.nPart) && (c.desc p).readLockable
  | .digest0 p => decide (p < c.nPart) && (c.desc p).hasDigest
  | .digest1 p => decide (p < c.nPart) && (c.desc p).hasDigest
  | _ => true

/-- The default layout of rule R101 (spec/30_encoding.md): the registers in order, four bytes apart. -/
def defaultRegs (c : Config) : List Reg :=
  [.intrState, .intrEnable, .intrTest, .alertTest, .status] ++ (List.range c.nErrRegs).map .errCode ++
    [.daiRegwen, .daiCmd, .daiAddress, .daiWdata0, .daiWdata1, .daiRdata0, .daiRdata1,
     .checkTriggerRegwen, .checkTrigger, .checkRegwen, .checkTimeout] ++
    (c.partsWith PartDesc.readLockable).map .readLock ++
    (c.partsWith PartDesc.hasDigest).flatMap fun p => [.digest0 p, .digest1 p]

/-- `REGMAP` of rule R101 as an assignment of offsets. -/
def defaultRegmap (c : Config) : List (Reg × Nat) := (defaultRegs c).zipIdx.map fun ri => (ri.1, 4 * ri.2)

/-- The offset `REGMAP` gives a register. -/
def Config.offsetOf (c : Config) (r : Reg) : Option Nat :=
  (c.regmap.find? fun e => decide (e.1 = r)).map fun e => e.2

/-- The register at an offset (spec/30_encoding.md R114: an offset not in `REGMAP` has none). Where a `REGMAP` gives
several registers one offset, which the spec neither excludes nor gives an outcome, it is the one listed first (DESIGN
CHOICE, log 33). -/
def Config.regAt (c : Config) (off : Nat) : Option Reg :=
  (c.regmap.find? fun e => decide (e.2 = off)).map fun e => e.1

/-- `REGMAP` is usable: every listed register exists, offsets are 4-aligned 32-bit numbers, and no register
and no offset stands twice (spec/30_encoding.md R101, R114). It is a premise of statements; a step does not ask it (DESIGN
CHOICE, log 33). -/
def Config.regmapOk (c : Config) : Bool :=
  c.regmap.all (fun e => c.hasReg e.1 && decide (e.2 % 4 = 0) && decide (e.2 < 4294967296)) &&
    decide (c.regmap.map (fun e => e.1)).Nodup && decide (c.regmap.map (fun e => e.2)).Nodup

/-- Offset, size and digest offset are `u32` (spec/20_memory.md R62). -/
def PartDesc.fits (d : PartDesc) : Bool :=
  decide (d.byteOffset < 4294967296) && decide (d.byteSize < 4294967296) && decide (d.digestOffset < 4294967296)

/-- The invariants of one descriptor (spec/20_memory.md R62, R63). -/
def Config.descOk (c : Config) (d : PartDesc) : Bool :=
  d.fits && decide (d.byteSize % 4 = 0) && decide (d.byteOffset + d.byteSize ≤ c.otpDataSize) &&
    !(d.hwDigest && d.swDigest) &&
    (!d.secret || (decide (d.byteOffset % 8 = 0) && decide (d.byteSize % 8 = 0))) &&
    (!d.hasDigest || (decide (d.byteOffset % 8 = 0) && decide (d.byteSize % 8 = 0) && decide (8 ≤ d.byteSize) &&
      decide (d.digestOffset = d.byteOffset + d.byteSize - 8)))

/-- Disjoint and sorted by offset (spec/20_memory.md R63): each partition ends before the next starts. A partition of 0
bytes at an offset inside, or at the start of, the one listed before it, which the rule's words do not plainly exclude,
is refused (DESIGN CHOICE, log 38). -/
def sortedDisjoint : List PartDesc → Bool
  | d :: e :: ds => decide (d.byteOffset + d.byteSize ≤ e.byteOffset) && sortedDisjoint (e :: ds)
  | _ => true

/-- The invariants of `PART_TABLE`, `LC_PART`, `SEED_PARTS` and `OTP_DATA_SIZE` (spec/20_memory.md R63,
spec/00_scope.md R4), and the widths of R62. A configuration that breaks one is no device. -/
def Config.partTableOk (c : Config) : Bool :=
  decide (c.otpDataSize % 8 = 0) && c.partTable.all c.descOk && sortedDisjoint c.partTable &&
    decide (c.lcPart < c.nPart) && !(c.desc c.lcPart).hasDigest && !(c.desc c.lcPart).secret &&
    c.seedParts.all fun p => decide (p < c.nPart) && (c.desc p).writeLockable && !(c.desc p).readLockable

/-- The layout of the life-cycle partition and law L1 of its codec (spec/43_lci.md R240, R241): the two regions
lie at even offsets inside the partition without overlap, the two tables are complete, of the stated widths, and
injective, and `INVALID` is not a programmable state. It is a premise of statements; neither construction nor a step asks
it (DESIGN CHOICE, log 34). -/
def Config.lcCodecOk (c : Config) : Bool :=
  decide (c.lcStateOffset % 2 = 0) && decide (c.lcCntOffset % 2 = 0) &&
    decide (c.lcStateOffset + 2 * c.lcStateWords ≤ (c.desc c.lcPart).byteSize) &&
    decide (c.lcCntOffset + 2 * c.lcCntWords ≤ (c.desc c.lcPart).byteSize) &&
    (decide (c.lcStateOffset + 2 * c.lcStateWords ≤ c.lcCntOffset) ||
      decide (c.lcCntOffset + 2 * c.lcCntWords ≤ c.lcStateOffset)) &&
    decide (c.lcStateCodec.length = c.lcStates.programmable.length) &&
    !c.lcProgrammable c.lcInvalid.toNat && decide (c.lcCntCodec.length = c.lcCntMax + 1) &&
    c.lcStateCodec.all (fun w => decide (w.length = c.lcStateWords)) &&
    c.lcCntCodec.all (fun w => decide (w.length = c.lcCntWords)) &&
    decide c.lcStateCodec.Nodup && decide c.lcCntCodec.Nodup

end Sys2Proof
end

