-- ==== Sys2Proof/Machine/Memory.lean ====
section
/-! DEFINITION. Operations of the sparse memories that hold `image.data` and `image.ecc`
(spec/10_state.md R22, spec/20_memory.md R65 and R76). -/

namespace Sys2Proof

/-- What a byte that is not listed reads as: `INITIAL_IMAGE` is all zero (spec/00_scope.md R4; log 16). -/
def Memory.blank : Byte := 0#8

/-- The canonical form: addresses strictly rise and no entry is blank. -/
def Memory.wf : Memory → Bool
  | [] => true
  | [(_, b)] => b != Memory.blank
  | (a, b) :: (a', b') :: m => b != Memory.blank && decide (a < a') && Memory.wf ((a', b') :: m)

/-- The byte at an address. -/
def Memory.get : Memory → Nat → Byte
  | [], _ => Memory.blank
  | (c, x) :: m, a => if a = c then x else Memory.get m a

/-- Write one byte and keep the canonical form. -/
def Memory.set : Memory → Nat → Byte → Memory
  | [], a, b => if b = Memory.blank then [] else [(a, b)]
  | (c, x) :: m, a, b =>
    if a < c then
      if b = Memory.blank then (c, x) :: m else (a, b) :: (c, x) :: m
    else if a = c then
      if b = Memory.blank then m else (a, b) :: m
    else (c, x) :: Memory.set m a b

/-- The 16-bit little-endian value at `a`, `MemRead(a, 2)` (spec/20_memory.md R65). -/
def Memory.half (m : Memory) (a : Nat) : Half := m.get (a + 1) ++ m.get a

/-- `MemRead(a, 4)`. -/
def Memory.word (m : Memory) (a : Nat) : Word := m.half (a + 2) ++ m.half a

/-- `MemRead(a, 8)`. -/
def Memory.dword (m : Memory) (a : Nat) : DWord := m.word (a + 4) ++ m.word a

/-- `MemWrite(a, 2, v)` (spec/20_memory.md R65). -/
def Memory.setHalf (m : Memory) (a : Nat) (v : Half) : Memory :=
  (m.set a (v.extractLsb' 0 8)).set (a + 1) (v.extractLsb' 8 8)

/-- The `n` bytes from address `a`, ascending. -/
def Memory.bytes (m : Memory) (a n : Nat) : List Byte := (List.range n).map fun k => m.get (a + k)

/-- The memory whose bytes from address `a` are the given ones and whose other bytes are those of `m`. -/
def Memory.setBytes (m : Memory) (a : Nat) : List Byte → Memory
  | [] => m
  | b :: bs => Memory.setBytes (m.set a b) (a + 1) bs

/-- Copy the `n` bytes from address `a` of `src` into `dst`. -/
def Memory.copyRange (dst src : Memory) (a n : Nat) : Memory := dst.setBytes a (src.bytes a n)

/-- Every listed address is below `n`. -/
def Memory.below (m : Memory) (n : Nat) : Bool := m.all fun c => decide (c.1 < n)

/-- `LE64(src[o .. o+7])` of a byte string (spec/41_digest.md R176). -/
def le64 (src : List Byte) (o : Nat) : DWord :=
  src.getD (o + 7) 0#8 ++ src.getD (o + 6) 0#8 ++ src.getD (o + 5) 0#8 ++ src.getD (o + 4) 0#8 ++
    src.getD (o + 3) 0#8 ++ src.getD (o + 2) 0#8 ++ src.getD (o + 1) 0#8 ++ src.getD o 0#8

/-- The two bytes of a half-word, little-endian. -/
def halfBytes (h : Half) : List Byte := [h.extractLsb' 0 8, h.extractLsb' 8 8]

/-- The four bytes of a word, little-endian (spec/20_memory.md R76). -/
def wordBytes (w : Word) : List Byte :=
  [w.extractLsb' 0 8, w.extractLsb' 8 8, w.extractLsb' 16 8, w.extractLsb' 24 8]

/-- The word of four bytes, the first the least significant. -/
def wordOf (b0 b1 b2 b3 : Byte) : Word := b3 ++ b2 ++ b1 ++ b0

/-- The half-words of a byte string, little-endian, in ascending order; an odd last byte is dropped. -/
def halvesOf : List Byte → List Half
  | b0 :: b1 :: bs => (b1 ++ b0) :: halvesOf bs
  | _ => []

/-- `a & ~(n-1)` for `n` a power of two: the greatest multiple of `n` not above `a`
(spec/20_memory.md R77). -/
def alignDown (a n : Nat) : Nat := a / n * n

end Sys2Proof
end

