-- ==== Sys2Proof/Machine/Digest.lean ====
section
/-! DEFINITION. The Present-64 digest engine (spec/41_digest.md). The cipher is the spec's default PRESENT-128,
which the spec takes from general knowledge (PRESUMED, log 12). -/

namespace Sys2Proof

/-- `SBOX` (spec/41_digest.md R171). -/
def sbox (x : BitVec 4) : BitVec 4 :=
  [0xC#4, 0x5#4, 0x6#4, 0xB#4, 0x9#4, 0x0#4, 0xA#4, 0xD#4, 0x3#4, 0xE#4, 0xF#4, 0x8#4, 0x4#4, 0x7#4, 0x1#4,
   0x2#4].getD x.toNat 0#4

/-- `sLayer` (spec/41_digest.md R171). -/
def sLayer (s : DWord) : DWord :=
  (List.range 16).foldl
    (fun acc i => acc ||| ((sbox (s.extractLsb' (4 * i) 4)).setWidth 64) <<< (4 * i)) 0#64

/-- Where bit `i` goes, `P(i)` (spec/41_digest.md R172). -/
def pBit (i : Nat) : Nat := if i = 63 then 63 else 16 * i % 63

/-- `pLayer` (spec/41_digest.md R172). -/
def pLayer (s : DWord) : DWord :=
  (List.range 64).foldl (fun acc i => if s.getLsbD i then acc ||| (1#64) <<< (pBit i) else acc) 0#64

/-- The round key `K[127:64]` (spec/41_digest.md R173). -/
def roundKey (k : QWord) : DWord := k.extractLsb' 64 64

/-- The key register's update after round `r` (spec/41_digest.md R173). -/
def keyUpdate (k : QWord) (r : Nat) : QWord :=
  let k1 := k <<< 61 ||| k >>> 67
  let k2 := sbox (k1.extractLsb' 124 4) ++ (sbox (k1.extractLsb' 120 4) ++ k1.extractLsb' 0 120)
  k2 ^^^ ((BitVec.ofNat 5 r).setWidth 128 <<< 62)

/-- One round: state and key register (spec/41_digest.md R174). -/
def presentRound (sk : DWord × QWord) (r : Nat) : DWord × QWord :=
  (pLayer (sLayer (sk.1 ^^^ roundKey sk.2)), keyUpdate sk.2 r)

/-- PRESENT-128, 31 rounds and a final key addition (spec/41_digest.md R174). -/
def present128 (key : QWord) (pt : DWord) : DWord :=
  let sk := (List.range 31).foldl (fun sk i => presentRound sk (i + 1)) (pt, key)
  sk.1 ^^^ roundKey sk.2

/-- `Enc(key, pt)` of the configuration's cipher (spec/41_digest.md R170). -/
def Config.enc (c : Config) (key : QWord) (pt : DWord) : DWord :=
  match c.cipher with
  | .present128 => present128 key pt
  | .other => Config.otherCipher key pt

/-- `compress(st, key)` (spec/41_digest.md R175). -/
def Config.compress (c : Config) (st : DWord) (key : QWord) : DWord := st ^^^ c.enc key st

/-- The high half of the chunk at `off`, with the tail rule (spec/41_digest.md R176). -/
def Config.chunkHigh (c : Config) (src : List Byte) (n off : Nat) : DWord :=
  if off + 8 = n then
    match c.digestTail with
    | .nextBytes => le64 src n
    | .duplicate => le64 src off
  else le64 src (off + 8)

/-- `Digest(src, n, iv, cst)` (spec/41_digest.md R176). The byte order is the little-endian one the rule states; D13's
parameter `DIGEST_BYTE_ORDER` is not taken (DESIGN CHOICE, log 37). -/
def Config.digest (c : Config) (src : List Byte) (n : Nat) (iv : DWord) (cst : QWord) : DWord :=
  let st := (List.range ((n + 15) / 16)).foldl
    (fun st j => c.compress st (c.chunkHigh src n (16 * j) ++ le64 src (16 * j))) iv
  c.compress st cst

/-- `PartDigest(src)` of partition `p` (spec/41_digest.md R177, R178). -/
def Config.partDigest (c : Config) (img : Image) (p : Nat) (src : List Byte) : DWord :=
  c.digest src ((c.desc p).byteSize - 8) img.digestIv img.digestConst

/-- `LE128` of the 16 bytes at `o`. -/
def le128 (src : List Byte) (o : Nat) : QWord := le64 src (o + 8) ++ le64 src o

/-- Four entropy words as one key, the first lowest (spec/45_keyderiv.md R284). A word past the end of `ent`, which only
a configuration without `ENTROPY_WORDS(k) = 4 * KEY_BYTES(k) / 16` meets, is 0 (DESIGN CHOICE, log 30). -/
def entropyKey (ent : List Word) (j : Nat) : QWord :=
  ent.getD (4 * j + 3) 0#32 ++ ent.getD (4 * j + 2) 0#32 ++ ent.getD (4 * j + 1) 0#32 ++ ent.getD (4 * j) 0#32

/-- `KEY_DERIVE(k, sd, ent, iv)` (spec/45_keyderiv.md R284). -/
def Config.deriveKey (c : Config) (k : Nat) (sd : List Byte) (ent : List Word) (iv : DWord) : DWord :=
  match c.keyDerive with
  | .compressChain =>
    (List.range (sd.length / 16)).foldl
      (fun st j => c.compress st (le128 sd (16 * j) ^^^ entropyKey ent j)) iv
  | .other => Config.otherKeyDerive k sd ent iv

end Sys2Proof
end

