-- ==== Sys2Proof/Machine/Ecc.lean ====
section
/-! DEFINITION. The (22,16) codec, the checked storage read, and the one programming primitive
(spec/40_ecc.md, spec/20_memory.md R65 to R69). -/

namespace Sys2Proof

/-- `parity(v)`: 1 when the number of set bits is odd (spec/00_scope.md R5). -/
def parity (v : BitVec 22) : Bool := (List.range 22).foldl (fun acc i => Bool.xor acc (v.getLsbD i)) false

/-- The aggregate error of a checked read: `e` of spec/40_ecc.md R153. -/
inductive Severity
  | clean
  | corrected
  | uncorrectable
  deriving DecidableEq, Repr

/-- The greater of two severities (spec/40_ecc.md R158, R159). -/
def Severity.max : Severity → Severity → Severity
  | .uncorrectable, _ => .uncorrectable
  | _, .uncorrectable => .uncorrectable
  | .corrected, _ => .corrected
  | _, .corrected => .corrected
  | .clean, .clean => .clean

/-- The encoder masks with the number of their check bit's mask. -/
def Config.eccMasks (c : Config) : List (BitVec 22 × Nat) := c.eccEncMasks.zipIdx

/-- The codeword of a half-word, check bits set in mask order (spec/40_ecc.md R152). -/
def Config.codeword (c : Config) (d : Half) : BitVec 22 :=
  c.eccMasks.foldl
    (fun w m => if parity (w &&& m.1) then w ||| ((1#22) <<< (16 + m.2)) else w) (d.setWidth 22)

/-- `ecc16(d)` (spec/40_ecc.md R152). -/
def Config.ecc16 (c : Config) (d : Half) : BitVec 6 := (c.codeword d).extractLsb' 16 6

/-- The decoder mask of an encoder mask: bit `16 + j` added (spec/40_ecc.md R151). -/
def decMask (m : BitVec 22 × Nat) : BitVec 22 := m.1 ||| ((1#22) <<< (16 + m.2))

/-- The syndrome `s` of a codeword (spec/40_ecc.md R153). -/
def Config.syndrome (c : Config) (w : BitVec 22) : BitVec 6 :=
  c.eccMasks.foldl (fun s m => if parity (w &&& decMask m) then s ||| ((1#6) <<< m.2) else s) 0#6

/-- `COL[i]`, the syndrome of a single flipped bit `i` (spec/40_ecc.md R154). -/
def Config.column (c : Config) (i : Nat) : BitVec 6 := c.syndrome ((1#22) <<< i)

/-- The data bit whose column is the syndrome, if there is one (spec/40_ecc.md R153). With the default masks the
columns are distinct (R154); where masks of a configuration give several data bits one column, the spec does not say
which is flipped, and the model flips the lowest (DESIGN CHOICE, log 32). -/
def Config.flippedBit (c : Config) (s : BitVec 6) : Option Nat :=
  (List.range 16).find? fun i => decide (c.column i = s)

/-- `verify22(c)` (spec/40_ecc.md R153). -/
def Config.verify22 (c : Config) (w : BitVec 22) : Half × Severity :=
  let s := c.syndrome w
  if s = 0#6 then (w.extractLsb' 0 16, .clean)
  else if s.getLsbD 5 then
    match c.flippedBit s with
    | some i => (w.extractLsb' 0 16 ^^^ ((1#16) <<< i), .corrected)
    | none => (w.extractLsb' 0 16, .corrected)
  else (w.extractLsb' 0 16, .uncorrectable)

/-- `ecc32(w)` (spec/40_ecc.md R156). -/
def Config.ecc32 (c : Config) (w : Word) : Half :=
  (c.ecc16 (w.extractLsb' 16 16)).setWidth 8 ++ (c.ecc16 (w.extractLsb' 0 16)).setWidth 8

/-- `ecc64(w)` (spec/40_ecc.md R157). -/
def Config.ecc64 (c : Config) (w : DWord) : Word :=
  c.ecc32 (w.extractLsb' 32 32) ++ c.ecc32 (w.extractLsb' 0 32)

/-- `verify_n(w, code)` for `n = 32` (spec/40_ecc.md R158). -/
def Config.verify32 (c : Config) (w : Word) (code : Half) : Word × Severity :=
  let lo := c.verify22 (code.extractLsb' 0 6 ++ w.extractLsb' 0 16)
  let hi := c.verify22 (code.extractLsb' 8 6 ++ w.extractLsb' 16 16)
  (hi.1 ++ lo.1, lo.2.max hi.2)

/-- `verify_n(w, code)` for `n = 64` (spec/40_ecc.md R158). -/
def Config.verify64 (c : Config) (w : DWord) (code : Word) : DWord × Severity :=
  let lo := c.verify32 (w.extractLsb' 0 32) (code.extractLsb' 0 16)
  let hi := c.verify32 (w.extractLsb' 32 32) (code.extractLsb' 16 16)
  (hi.1 ++ lo.1, lo.2.max hi.2)

/-- `EccRead(a)` (spec/20_memory.md R66). The rule gives it for an even `a` alone; for the granules of a partition at an odd
`byte_offset`, which R63 does not exclude, it is the byte `a / 2` rounded down (DESIGN CHOICE, log 35). -/
def Image.eccRead (img : Image) (a : Nat) : BitVec 6 := (img.ecc.get (a / 2)).setWidth 6

/-- `EccWrite(a, c)` (spec/20_memory.md R66); for an odd `a`, see `Image.eccRead` (DESIGN CHOICE, log 35). -/
def Image.eccWrite (img : Image) (a : Nat) (code : BitVec 6) : Image :=
  { img with ecc := img.ecc.set (a / 2) (code.setWidth 8) }

/-- The composite code stored for the word at a 4-aligned offset, `ecc32(a)` (spec/20_memory.md R67). -/
def Image.eccRead32 (img : Image) (a : Nat) : Half :=
  (img.eccRead (a + 2)).setWidth 8 ++ (img.eccRead a).setWidth 8

/-- The composite code stored for the double word at an 8-aligned offset, `ecc64(a)` (spec/20_memory.md R67). -/
def Image.eccRead64 (img : Image) (a : Nat) : Word := img.eccRead32 (a + 4) ++ img.eccRead32 a

/-- `EccCheck(a, 2)` (spec/40_ecc.md R159, R160). -/
def Config.eccCheck16 (c : Config) (img : Image) (a : Nat) : Half × Severity :=
  if img.eccEnabled then c.verify22 (img.eccRead a ++ img.data.half a) else (img.data.half a, .clean)

/-- `EccCheck(a, 4)`. -/
def Config.eccCheck32 (c : Config) (img : Image) (a : Nat) : Word × Severity :=
  let lo := c.eccCheck16 img a
  let hi := c.eccCheck16 img (a + 2)
  (hi.1 ++ lo.1, lo.2.max hi.2)

/-- `EccCheck(a, 8)`. -/
def Config.eccCheck64 (c : Config) (img : Image) (a : Nat) : DWord × Severity :=
  let lo := c.eccCheck32 img a
  let hi := c.eccCheck32 img (a + 4)
  (hi.1 ++ lo.1, lo.2.max hi.2)

/-- `Program(a, 2, v)`: OR the bits in, rewrite the granule's code, and say whether a set bit would have been
cleared (spec/20_memory.md R69). The rule asks for an even `a`; at an odd one, which only the LCI can meet, the half-word
there is programmed and the ECC byte `a / 2` rewritten (DESIGN CHOICE, log 35). -/
def Config.program16 (c : Config) (img : Image) (a : Nat) (v : Half) : Image × Bool :=
  let old := img.data.half a
  let new := old ||| v
  let img' := { img with data := img.data.setHalf a new }
  (if img.eccEnabled then img'.eccWrite a (c.ecc16 new) else img', decide (old &&& ~~~v ≠ 0#16))

/-- `Program(a, 4, v)`: its two granules, the blank flags joined (log 19). -/
def Config.program32 (c : Config) (img : Image) (a : Nat) (v : Word) : Image × Bool :=
  let lo := c.program16 img a (v.extractLsb' 0 16)
  let hi := c.program16 lo.1 (a + 2) (v.extractLsb' 16 16)
  (hi.1, lo.2 || hi.2)

/-- `Program(a, 8, v)`: its two words. -/
def Config.program64 (c : Config) (img : Image) (a : Nat) (v : DWord) : Image × Bool :=
  let lo := c.program32 img a (v.extractLsb' 0 32)
  let hi := c.program32 lo.1 (a + 4) (v.extractLsb' 32 32)
  (hi.1, lo.2 || hi.2)

/-- The address a DAI command at `a` in partition `p` acts on (spec/20_memory.md R77). -/
def Config.daiAddress (c : Config) (p a : Nat) : Nat :=
  if c.isWideGranule p a then alignDown a 8 else alignDown a 4

/-- The width in bytes of a DAI access (spec/20_memory.md R78). -/
def Config.daiWidth (c : Config) (p a : Nat) : Nat := if c.isWideGranule p a then 8 else 4

/-- The checked value of a DAI read; a 32-bit read has a zero high half (spec/42_dai.md R205). -/
def Config.daiValue (c : Config) (img : Image) (p a : Nat) : DWord × Severity :=
  if c.isWideGranule p a then c.eccCheck64 img (alignDown a 8)
  else ((c.eccCheck32 img (alignDown a 4)).1.setWidth 64, (c.eccCheck32 img (alignDown a 4)).2)

end Sys2Proof
end

