-- ==== Sys2Proof/Machine/Ex1.lean ====
section
/-! DEFINITION. EX1, the example configuration of spec/95_test_vectors.md section 1: the configuration of
`State.reset` (DESIGN CHOICE, log 1; it is not the source's variant, spec/92_eei_decisions.md D3). -/

namespace Sys2Proof

/-- The partition table of section 1.1. `LIFE_CYCLE` has no digest; its `digestOffset` is read by nothing. -/
def ex1Parts : List PartDesc :=
  [{ name := "SW_A", byteOffset := 0x000, byteSize := 0x40, digestOffset := 0x038, hwDigest := false,
     swDigest := true, secret := false, buffered := false, writeLockable := false, readLockable := true },
   { name := "SW_B", byteOffset := 0x040, byteSize := 0x40, digestOffset := 0x078, hwDigest := false,
     swDigest := true, secret := false, buffered := false, writeLockable := false, readLockable := false },
   { name := "HW_A", byteOffset := 0x080, byteSize := 0x28, digestOffset := 0x0A0, hwDigest := true,
     swDigest := false, secret := false, buffered := true, writeLockable := false, readLockable := false },
   { name := "SECRET_A", byteOffset := 0x0A8, byteSize := 0x48, digestOffset := 0x0E8, hwDigest := true,
     swDigest := false, secret := true, buffered := true, writeLockable := true, readLockable := false },
   { name := "LIFE_CYCLE", byteOffset := 0x0F0, byteSize := 0x58, digestOffset := 0, hwDigest := false,
     swDigest := false, secret := false, buffered := true, writeLockable := false, readLockable := false }]

/-- The default encoder masks (spec/40_ecc.md R151; PRESUMED by the spec, log 11). -/
def defaultEccMasks : List (BitVec 22) :=
  [0x00AD5B#22, 0x00366D#22, 0x00C78E#22, 0x0007F0#22, 0x00F800#22, 0x1FFFFF#22]

/-- The first `n` of `w` words `0xFFFF`, the rest 0: the raw codes of section 1.3. -/
def thermometer (w n : Nat) : List Half := List.replicate n 0xFFFF#16 ++ List.replicate (w - n) 0#16

/-- `INITIAL_IMAGE` of section 1.2: all zero, ECC enabled. -/
def ex1Image : Image :=
  { eccEnabled := true, data := [], ecc := [], digestIv := 0x0123456789ABCDEF#64,
    digestConst := 0x00112233445566778899AABBCCDDEEFF#128 }

/-- EX1 but for its register map. `SW_WINDOW_BASE` and the version-1 digest parameters, which section 1 leaves
open, are DESIGN CHOICES (log 28). -/
def ex1Base : Config :=
  { partTable := ex1Parts, lcPart := 4, otpDataSize := 0x148, eccEncMasks := defaultEccMasks,
    cipher := .present128, digestTail := .nextBytes,
    defaultDigestIv := 0x0123456789ABCDEF#64, defaultDigestConst := 0x00112233445566778899AABBCCDDEEFF#128,
    regmap := [], addrMask := 0x1FF#32, swWindowBase := 0x1000, swWindowSize := 0x148, seedParts := [3],
    lcStates := defaultLcStates,
    lcStateCodec := (List.range 21).map (thermometer 20), lcCntCodec := (List.range 25).map (thermometer 24),
    lcStateOffset := 48, lcCntOffset := 0, lcStateWords := 20, lcCntWords := 24,
    testUnlockLoc := { part := 3, offset := 0x00 }, testExitLoc := { part := 3, offset := 0x10 },
    rmaLoc := { part := 3, offset := 0x20 }, tokenBytes := 16, secretValidPart := 3,
    deviceIdLoc := { part := 2, offset := 0x00, bytes := 8 },
    manufStateLoc := { part := 2, offset := 0x08, bytes := 8 },
    debugStateLoc := { part := 2, offset := 0x10, bytes := 1 },
    sramIfetchLoc := { part := 2, offset := 0x11, bytes := 1 },
    keyTypes := [{ name := "SRAM", seedPart := 3, seedOffset := 0x30, keyBytes := 16, nonceWords := 2,
                   entropyWords := 4 }],
    entropyCap := 8, keyDerive := .compressChain, backendWritable := true, initialImage := ex1Image }

/-- EX1 (section 1.5: the default layout of rule R101). -/
def ex1 : Config := { ex1Base with regmap := defaultRegmap ex1Base }

end Sys2Proof
end

