-- ==== Sys2Proof/Syntax.lean ====
section
/-! DEFINITION. The operations of the block, one constructor for each row of spec/opcode_table.json
(spec/30_encoding.md R140). -/

namespace Sys2Proof

/-- The life-cycle broadcast signals (spec/10_state.md R33). -/
inductive LcSignal
  | debugEn | escalateEn | checkBypEn | seedReadEn | seedWriteEn
  deriving DecidableEq, Repr

/-- An operation. The DAI commands carry the bits of the command word that their pattern ignores
(spec/30_encoding.md R108); `v` is the value of a bus write; `k` and `p` select a register; `woff` is a window
offset. -/
inductive Instr
  /-- DAI.RD, pattern `xx1`: `ign` is `v[31:1]` (spec/42_dai.md R205). -/
  | daiRd (ign : BitVec 31)
  /-- DAI.WR, pattern `x10`: `ign` is `v[31:2]` (spec/42_dai.md R210). -/
  | daiWr (ign : BitVec 30)
  /-- DAI.DIGEST, pattern `100`: `ign` is `v[31:3]` (spec/42_dai.md R215). -/
  | daiDigest (ign : BitVec 29)
  /-- DAI.NONE, pattern `000`: `ign` is `v[31:3]` (spec/42_dai.md R224). -/
  | daiNone (ign : BitVec 29)
  /-- RD INTR_STATE (spec/46_registers.md R300). -/
  | rdIntrState
  /-- WR INTR_STATE (spec/46_registers.md R301). -/
  | wrIntrState (v : Word)
  /-- RD INTR_ENABLE (spec/46_registers.md R300). -/
  | rdIntrEnable
  /-- WR INTR_ENABLE (spec/46_registers.md R301). -/
  | wrIntrEnable (v : Word)
  /-- RD INTR_TEST (spec/46_registers.md R300). -/
  | rdIntrTest
  /-- WR INTR_TEST (spec/46_registers.md R301). -/
  | wrIntrTest (v : Word)
  /-- RD ALERT_TEST (spec/46_registers.md R300). -/
  | rdAlertTest
  /-- WR ALERT_TEST (spec/46_registers.md R301). -/
  | wrAlertTest (v : Word)
  /-- RD STATUS (spec/46_registers.md R300). -/
  | rdStatus
  /-- WR STATUS (spec/46_registers.md R301). -/
  | wrStatus (v : Word)
  /-- RD ERR_CODE_k (spec/46_registers.md R300). -/
  | rdErrCode (k : Nat)
  /-- WR ERR_CODE_k (spec/46_registers.md R301). -/
  | wrErrCode (k : Nat) (v : Word)
  /-- RD DIRECT_ACCESS_REGWEN (spec/46_registers.md R300). -/
  | rdDaiRegwen
  /-- WR DIRECT_ACCESS_REGWEN (spec/46_registers.md R301). -/
  | wrDaiRegwen (v : Word)
  /-- RD DIRECT_ACCESS_CMD (spec/46_registers.md R300). -/
  | rdDaiCmd
  /-- WR DIRECT_ACCESS_CMD (spec/46_registers.md R301). -/
  | wrDaiCmd (v : Word)
  /-- RD DIRECT_ACCESS_ADDRESS (spec/46_registers.md R300). -/
  | rdDaiAddress
  /-- WR DIRECT_ACCESS_ADDRESS (spec/46_registers.md R301). -/
  | wrDaiAddress (v : Word)
  /-- RD DIRECT_ACCESS_WDATA_0 (spec/46_registers.md R300). -/
  | rdDaiWdata0
  /-- WR DIRECT_ACCESS_WDATA_0 (spec/46_registers.md R301). -/
  | wrDaiWdata0 (v : Word)
  /-- RD DIRECT_ACCESS_WDATA_1 (spec/46_registers.md R300). -/
  | rdDaiWdata1
  /-- WR DIRECT_ACCESS_WDATA_1 (spec/46_registers.md R301). -/
  | wrDaiWdata1 (v : Word)
  /-- RD DIRECT_ACCESS_RDATA_0 (spec/46_registers.md R300). -/
  | rdDaiRdata0
  /-- WR DIRECT_ACCESS_RDATA_0 (spec/46_registers.md R301). -/
  | wrDaiRdata0 (v : Word)
  /-- RD DIRECT_ACCESS_RDATA_1 (spec/46_registers.md R300). -/
  | rdDaiRdata1
  /-- WR DIRECT_ACCESS_RDATA_1 (spec/46_registers.md R301). -/
  | wrDaiRdata1 (v : Word)
  /-- RD CHECK_TRIGGER_REGWEN (spec/46_registers.md R300). -/
  | rdCheckTriggerRegwen
  /-- WR CHECK_TRIGGER_REGWEN (spec/46_registers.md R301). -/
  | wrCheckTriggerRegwen (v : Word)
  /-- RD CHECK_TRIGGER (spec/46_registers.md R300). -/
  | rdCheckTrigger
  /-- WR CHECK_TRIGGER (spec/46_registers.md R301). -/
  | wrCheckTrigger (v : Word)
  /-- RD CHECK_REGWEN (spec/46_registers.md R300). -/
  | rdCheckRegwen
  /-- WR CHECK_REGWEN (spec/46_registers.md R301). -/
  | wrCheckRegwen (v : Word)
  /-- RD CHECK_TIMEOUT (spec/46_registers.md R300). -/
  | rdCheckTimeout
  /-- WR CHECK_TIMEOUT (spec/46_registers.md R301). -/
  | wrCheckTimeout (v : Word)
  /-- RD _P__READ_LOCK (spec/46_registers.md R300). -/
  | rdReadLock (p : Nat)
  /-- WR _P__READ_LOCK (spec/46_registers.md R301). -/
  | wrReadLock (p : Nat) (v : Word)
  /-- RD _P__DIGEST_0 (spec/46_registers.md R300). -/
  | rdDigest0 (p : Nat)
  /-- WR _P__DIGEST_0 (spec/46_registers.md R301). -/
  | wrDigest0 (p : Nat) (v : Word)
  /-- RD _P__DIGEST_1 (spec/46_registers.md R300). -/
  | rdDigest1 (p : Nat)
  /-- WR _P__DIGEST_1 (spec/46_registers.md R301). -/
  | wrDigest1 (p : Nat) (v : Word)
  /-- WRD woff (spec/46_registers.md R320). -/
  | wrd (woff : Word)
  /-- WWR woff, v (spec/46_registers.md R322). -/
  | wwr (woff v : Word)
  /-- PWRUP (spec/44_powerup.md R260). -/
  | pwrup
  /-- LCPROG s, t, cb (spec/43_lci.md R243): state index, transition count, callback. -/
  | lcprog (st cnt : Nat) (cb : CallbackId)
  /-- LCSIG name, b (spec/47_interfaces.md R340). -/
  | lcsig (name : LcSignal) (level : Bool)
  /-- GETLC (spec/47_interfaces.md R343). -/
  | getlc
  /-- GETHW (spec/47_interfaces.md R344). -/
  | gethw
  /-- GETKEY k (spec/45_keyderiv.md R282): `k` is an index into `KEY_TYPES`. -/
  | getkey (k : Nat)
  /-- ENTROPY bits, fips (spec/45_keyderiv.md R281). -/
  | entropy (bits : Word) (fips : Bool)
  /-- ALERTACK i (spec/47_interfaces.md R346). -/
  | alertack (i : Nat)
  /-- FIRE DaiDone (spec/42_dai.md R220). -/
  | fireDaiDone
  /-- FIRE LciWordDone (spec/43_lci.md R245). -/
  | fireLciWordDone
  /-- FIRE LciFail(cb) (spec/43_lci.md R247). -/
  | fireLciFail (cb : CallbackId)
  /-- RESET (spec/70_reset_and_hazards.md R450). -/
  | reset
  deriving DecidableEq, Repr

end Sys2Proof
end

