-- ==== Sys2Proof/WellFormed.lean ====
section
/-! DEFINITION. Which operations are in the admitted set of a configuration (spec/30_encoding.md R114, R142;
spec/93_implementation_defined.md U1, U2, U6, U9 to U12). -/

namespace Sys2Proof

/-- The register exists and `REGMAP` places it. -/
def Config.mapped (c : Config) (r : Reg) : Bool := c.hasReg r && (c.offsetOf r).isSome

/-- The window offset lies below `SW_WINDOW_SIZE`, and its bus address has 32 bits (spec/46_registers.md R320). -/
def Config.inWindow (c : Config) (woff : Word) : Bool :=
  decide (woff.toNat < c.swWindowSize) && decide (c.swWindowBase + woff.toNat < 4294967296)

/-- The register an operation reads or writes over the bus. -/
def Instr.reg : Instr → Option Reg
  | .rdIntrState => some .intrState
  | .wrIntrState _ => some .intrState
  | .rdIntrEnable => some .intrEnable
  | .wrIntrEnable _ => some .intrEnable
  | .rdIntrTest => some .intrTest
  | .wrIntrTest _ => some .intrTest
  | .rdAlertTest => some .alertTest
  | .wrAlertTest _ => some .alertTest
  | .rdStatus => some .status
  | .wrStatus _ => some .status
  | .rdErrCode k => some (.errCode k)
  | .wrErrCode k _ => some (.errCode k)
  | .rdDaiRegwen => some .daiRegwen
  | .wrDaiRegwen _ => some .daiRegwen
  | .rdDaiCmd => some .daiCmd
  | .wrDaiCmd _ => some .daiCmd
  | .rdDaiAddress => some .daiAddress
  | .wrDaiAddress _ => some .daiAddress
  | .rdDaiWdata0 => some .daiWdata0
  | .wrDaiWdata0 _ => some .daiWdata0
  | .rdDaiWdata1 => some .daiWdata1
  | .wrDaiWdata1 _ => some .daiWdata1
  | .rdDaiRdata0 => some .daiRdata0
  | .wrDaiRdata0 _ => some .daiRdata0
  | .rdDaiRdata1 => some .daiRdata1
  | .wrDaiRdata1 _ => some .daiRdata1
  | .rdCheckTriggerRegwen => some .checkTriggerRegwen
  | .wrCheckTriggerRegwen _ => some .checkTriggerRegwen
  | .rdCheckTrigger => some .checkTrigger
  | .wrCheckTrigger _ => some .checkTrigger
  | .rdCheckRegwen => some .checkRegwen
  | .wrCheckRegwen _ => some .checkRegwen
  | .rdCheckTimeout => some .checkTimeout
  | .wrCheckTimeout _ => some .checkTimeout
  | .rdReadLock p => some (.readLock p)
  | .wrReadLock p _ => some (.readLock p)
  | .rdDigest0 p => some (.digest0 p)
  | .wrDigest0 p _ => some (.digest0 p)
  | .rdDigest1 p => some (.digest1 p)
  | .wrDigest1 p _ => some (.digest1 p)
  | .daiRd _ => none
  | .daiWr _ => none
  | .daiDigest _ => none
  | .daiNone _ => none
  | .wrd _ => none
  | .wwr _ _ => none
  | .pwrup => none
  | .lcprog _ _ _ => none
  | .lcsig _ _ => none
  | .getlc => none
  | .gethw => none
  | .getkey _ => none
  | .entropy _ _ => none
  | .alertack _ => none
  | .fireDaiDone => none
  | .fireLciWordDone => none
  | .fireLciFail _ => none
  | .reset => none

/-- The operand checks of the operations that have operands to check. A DAI command by its value is admitted though a
`REGMAP` with no entry for `DIRECT_ACCESS_CMD` gives it no bus offset (DESIGN CHOICE, log 33). -/
def Instr.operandsOk (c : Config) : Instr → Bool
  | .wrd woff => decide (woff.toNat % 4 = 0) && c.inWindow woff
  | .wwr woff _ => c.inWindow woff
  | .lcprog st cnt _ => c.lcProgrammable st && decide (cnt ≤ c.lcCntMax) && decide (cnt < 4294967296)
  | .getkey k => decide (k < c.keyTypes.length) && decide (k < 256)
  | .alertack i => decide (i < 2)
  | i =>
    match i.reg with
    | some r => c.mapped r
    | none => true

/-- The operation is in the admitted set. -/
def Instr.wf (c : Config) (i : Instr) : Bool := i.operandsOk c

end Sys2Proof
end

