-- ==== Sys2Proof/Decode.lean ====
section
/-! DEFINITION. From the bytes of an operation frame to an operation, and back. The spec gives the register
offsets (spec/30_encoding.md R101), the DAI command values (R108) and the operand ranges (R142); that an
operation reaches the block as one byte for its kind and then its operands is the model's own
(DESIGN CHOICE, log 2). -/

namespace Sys2Proof

/-- Why a frame is no operation: each is a refusal of spec/60_exceptions.md R400. -/
inductive DecodeError
  /-- The frame ends before its operands do (the model's own frames, log 2; safe). -/
  | truncated
  /-- No operation has this kind (log 2; safe). -/
  | unknownKind
  /-- A bus access that is not 32 bits wide (spec/93_implementation_defined.md U1; safe). -/
  | badSize
  /-- A bus access that is not 4-aligned (U1, U6; safe). -/
  | misaligned
  /-- An offset that is not in `REGMAP` (U2; safe). -/
  | unmappedOffset
  /-- An address outside the window (U6; safe). -/
  | outsideWindow
  /-- An instruction fetch from the window (spec/20_memory.md R82, U40; safe). -/
  | windowFetch
  /-- An operand out of its range (U9 to U12; safe). -/
  | badOperand
  deriving DecidableEq, Repr

/-- The kinds of frame: who presents the operation and which it is. -/
inductive Kind
  | daiCmd | regRead | regWrite | winRead | winWrite | winFetch
  | pwrup | lcprog | lcsig | getlc | gethw | getkey | entropy | alertack
  | fireDaiDone | fireLciWordDone | fireLciFail | reset
  deriving DecidableEq, Repr

/-- The kinds in the order of their codes. -/
def kinds : List Kind :=
  [.daiCmd, .regRead, .regWrite, .winRead, .winWrite, .winFetch, .pwrup, .lcprog, .lcsig, .getlc, .gethw, .getkey,
   .entropy, .alertack, .fireDaiDone, .fireLciWordDone, .fireLciFail, .reset]

/-- The code of a kind, the first byte of its frames (DESIGN CHOICE, log 2). -/
def Kind.code : Kind → Byte
  | .daiCmd => 0#8
  | .regRead => 1#8
  | .regWrite => 2#8
  | .winRead => 3#8
  | .winWrite => 4#8
  | .winFetch => 5#8
  | .pwrup => 6#8
  | .lcprog => 7#8
  | .lcsig => 8#8
  | .getlc => 9#8
  | .gethw => 10#8
  | .getkey => 11#8
  | .entropy => 12#8
  | .alertack => 13#8
  | .fireDaiDone => 14#8
  | .fireLciWordDone => 15#8
  | .fireLciFail => 16#8
  | .reset => 17#8

/-- The kind with a code. -/
def kindOf (b : Byte) : Option Kind := kinds[b.toNat]?

/-- The DAI command a value of `DIRECT_ACCESS_CMD` selects: the lowest set bit of `v[2:0]` wins
(spec/30_encoding.md R108, R114). -/
def daiCommandOf (v : Word) : Instr :=
  if v.getLsbD 0 then .daiRd (v.extractLsb' 1 31)
  else if v.getLsbD 1 then .daiWr (v.extractLsb' 2 30)
  else if v.getLsbD 2 then .daiDigest (v.extractLsb' 3 29)
  else .daiNone (v.extractLsb' 3 29)

/-- The read of a register (spec/30_encoding.md R140). -/
def Reg.readOp : Reg → Instr
  | .intrState => .rdIntrState
  | .intrEnable => .rdIntrEnable
  | .intrTest => .rdIntrTest
  | .alertTest => .rdAlertTest
  | .status => .rdStatus
  | .errCode k => .rdErrCode k
  | .daiRegwen => .rdDaiRegwen
  | .daiCmd => .rdDaiCmd
  | .daiAddress => .rdDaiAddress
  | .daiWdata0 => .rdDaiWdata0
  | .daiWdata1 => .rdDaiWdata1
  | .daiRdata0 => .rdDaiRdata0
  | .daiRdata1 => .rdDaiRdata1
  | .checkTriggerRegwen => .rdCheckTriggerRegwen
  | .checkTrigger => .rdCheckTrigger
  | .checkRegwen => .rdCheckRegwen
  | .checkTimeout => .rdCheckTimeout
  | .readLock p => .rdReadLock p
  | .digest0 p => .rdDigest0 p
  | .digest1 p => .rdDigest1 p

/-- The write of a register (spec/30_encoding.md R140). -/
def Reg.writeOp (v : Word) : Reg → Instr
  | .intrState => .wrIntrState v
  | .intrEnable => .wrIntrEnable v
  | .intrTest => .wrIntrTest v
  | .alertTest => .wrAlertTest v
  | .status => .wrStatus v
  | .errCode k => .wrErrCode k v
  | .daiRegwen => .wrDaiRegwen v
  | .daiCmd => .wrDaiCmd v
  | .daiAddress => .wrDaiAddress v
  | .daiWdata0 => .wrDaiWdata0 v
  | .daiWdata1 => .wrDaiWdata1 v
  | .daiRdata0 => .wrDaiRdata0 v
  | .daiRdata1 => .wrDaiRdata1 v
  | .checkTriggerRegwen => .wrCheckTriggerRegwen v
  | .checkTrigger => .wrCheckTrigger v
  | .checkRegwen => .wrCheckRegwen v
  | .checkTimeout => .wrCheckTimeout v
  | .readLock p => .wrReadLock p v
  | .digest0 p => .wrDigest0 p v
  | .digest1 p => .wrDigest1 p v

/-- The checks of a register access and the register it reaches (spec/20_memory.md R77,
spec/30_encoding.md R114). -/
def regAccess (c : Config) (off : Word) (size : Byte) : Except DecodeError Reg :=
  if size ≠ 4#8 then .error .badSize
  else if off.toNat % 4 ≠ 0 then .error .misaligned
  else
    match c.regAt off.toNat with
    | some r => .ok r
    | none => .error .unmappedOffset

/-- The window offset of a bus address, `woff = a - SW_WINDOW_BASE` (spec/opcode_table.json, WRD). -/
def windowOffset (c : Config) (a : Word) : Except DecodeError Word :=
  if a.toNat < c.swWindowBase ∨ c.swWindowSize ≤ a.toNat - c.swWindowBase then .error .outsideWindow
  else .ok (BitVec.ofNat 32 (a.toNat - c.swWindowBase))

/-- The operation of a register read at an offset. -/
def decodeRead (c : Config) (off : Word) (size : Byte) (rest : List Byte) :
    Except DecodeError (Instr × List Byte) :=
  match regAccess c off size with
  | .ok r => .ok (r.readOp, rest)
  | .error e => .error e

/-- The operation of a register write at an offset. -/
def decodeWrite (c : Config) (off : Word) (size : Byte) (v : Word) (rest : List Byte) :
    Except DecodeError (Instr × List Byte) :=
  match regAccess c off size with
  | .ok r => .ok (r.writeOp v, rest)
  | .error e => .error e

/-- The operation of a window read: 32 bits, 4-aligned (spec/46_registers.md R320). -/
def decodeWinRead (c : Config) (a : Word) (size : Byte) (rest : List Byte) :
    Except DecodeError (Instr × List Byte) :=
  match windowOffset c a with
  | .error e => .error e
  | .ok woff =>
    if size ≠ 4#8 then .error .badSize
    else if woff.toNat % 4 ≠ 0 then .error .misaligned
    else .ok (.wrd woff, rest)

/-- The operation of a window write, whatever its size and alignment: "any write" is a bus error
(spec/46_registers.md R322; DEDUCED, log 15). -/
def decodeWinWrite (c : Config) (a v : Word) (rest : List Byte) : Except DecodeError (Instr × List Byte) :=
  match windowOffset c a with
  | .error e => .error e
  | .ok woff => .ok (.wwr woff v, rest)

/-- A frame bit. -/
def decodeBool (b : Byte) : Option Bool :=
  if b = 0#8 then some false else if b = 1#8 then some true else none

/-- A signal's number in the order of spec/10_state.md R33. -/
def decodeSignal (b : Byte) : Option LcSignal :=
  [LcSignal.debugEn, .escalateEn, .checkBypEn, .seedReadEn, .seedWriteEn][b.toNat]?

/-- The number of a signal. -/
def LcSignal.code : LcSignal → Byte
  | .debugEn => 0#8
  | .escalateEn => 1#8
  | .checkBypEn => 2#8
  | .seedReadEn => 3#8
  | .seedWriteEn => 4#8

/-- `LCPROG`'s operands (spec/30_encoding.md R142). -/
def decodeLcprog (c : Config) (st : Byte) (cnt cb : Word) (rest : List Byte) :
    Except DecodeError (Instr × List Byte) :=
  if c.lcProgrammable st.toNat = true ∧ cnt.toNat ≤ c.lcCntMax then .ok (.lcprog st.toNat cnt.toNat cb, rest)
  else .error .badOperand

/-- `LCSIG`'s operands: one of the five signals and a level (spec/30_encoding.md R142). -/
def decodeLcsig (name level : Byte) (rest : List Byte) : Except DecodeError (Instr × List Byte) :=
  match decodeSignal name, decodeBool level with
  | some n, some l => .ok (.lcsig n l, rest)
  | _, _ => .error .badOperand

/-- The operands of a kind, taken from the bytes behind its code. A DAI command frame carries the command value and no
offset, so it decodes whatever `REGMAP` lists (DESIGN CHOICE, log 2, log 33). -/
def decodeBody (c : Config) : Kind → List Byte → Except DecodeError (Instr × List Byte)
  | .daiCmd, b0 :: b1 :: b2 :: b3 :: rest => .ok (daiCommandOf (wordOf b0 b1 b2 b3), rest)
  | .regRead, b0 :: b1 :: b2 :: b3 :: sz :: rest => decodeRead c (wordOf b0 b1 b2 b3) sz rest
  | .regWrite, b0 :: b1 :: b2 :: b3 :: sz :: v0 :: v1 :: v2 :: v3 :: rest =>
    decodeWrite c (wordOf b0 b1 b2 b3) sz (wordOf v0 v1 v2 v3) rest
  | .winRead, b0 :: b1 :: b2 :: b3 :: sz :: rest => decodeWinRead c (wordOf b0 b1 b2 b3) sz rest
  | .winWrite, b0 :: b1 :: b2 :: b3 :: _ :: v0 :: v1 :: v2 :: v3 :: rest =>
    decodeWinWrite c (wordOf b0 b1 b2 b3) (wordOf v0 v1 v2 v3) rest
  | .winFetch, _ :: _ :: _ :: _ :: _ => .error .windowFetch
  | .pwrup, rest => .ok (.pwrup, rest)
  | .lcprog, st :: t0 :: t1 :: t2 :: t3 :: b0 :: b1 :: b2 :: b3 :: rest =>
    decodeLcprog c st (wordOf t0 t1 t2 t3) (wordOf b0 b1 b2 b3) rest
  | .lcsig, name :: level :: rest => decodeLcsig name level rest
  | .getlc, rest => .ok (.getlc, rest)
  | .gethw, rest => .ok (.gethw, rest)
  | .getkey, k :: rest =>
    if k.toNat < c.keyTypes.length then .ok (.getkey k.toNat, rest) else .error .badOperand
  | .entropy, b0 :: b1 :: b2 :: b3 :: f :: rest =>
    match decodeBool f with
    | some fips => .ok (.entropy (wordOf b0 b1 b2 b3) fips, rest)
    | none => .error .badOperand
  | .alertack, i :: rest => if i.toNat < 2 then .ok (.alertack i.toNat, rest) else .error .badOperand
  | .fireDaiDone, rest => .ok (.fireDaiDone, rest)
  | .fireLciWordDone, rest => .ok (.fireLciWordDone, rest)
  | .fireLciFail, b0 :: b1 :: b2 :: b3 :: rest => .ok (.fireLciFail (wordOf b0 b1 b2 b3), rest)
  | .reset, rest => .ok (.reset, rest)
  | _, _ => .error .truncated

/-- Decode the first operation of a byte stream: the operation and the bytes behind it. Total on any bytes. -/
def decode (c : Config) : List Byte → Except DecodeError (Instr × List Byte)
  | [] => .error .truncated
  | k :: bs =>
    match kindOf k with
    | some kind => decodeBody c kind bs
    | none => .error .unknownKind

/-- The frame of a register read at an offset. -/
def readFrame (off : Word) : List Byte := Kind.regRead.code :: (wordBytes off ++ [4#8])

/-- The frame of a register write. -/
def writeFrame (off v : Word) : List Byte := Kind.regWrite.code :: (wordBytes off ++ 4#8 :: wordBytes v)

/-- The frame of a DAI command word. -/
def cmdFrame (v : Word) : List Byte := Kind.daiCmd.code :: wordBytes v

/-- The offset of a register as a 32-bit number. -/
def Config.offsetWord (c : Config) (r : Reg) : Word := BitVec.ofNat 32 ((c.offsetOf r).getD 0)

/-- The bus address of a window offset. -/
def Config.windowAddress (c : Config) (woff : Word) : Word := BitVec.ofNat 32 (c.swWindowBase + woff.toNat)

/-- A frame bit's byte. -/
def boolByte (b : Bool) : Byte := if b then 1#8 else 0#8

/-- The frame of an operation. -/
def encode (c : Config) : Instr → List Byte
  | .daiRd ign => cmdFrame (ign ++ 1#1)
  | .daiWr ign => cmdFrame (ign ++ 2#2)
  | .daiDigest ign => cmdFrame (ign ++ 4#3)
  | .daiNone ign => cmdFrame (ign ++ 0#3)
  | .rdIntrState => readFrame (c.offsetWord .intrState)
  | .wrIntrState v => writeFrame (c.offsetWord .intrState) v
  | .rdIntrEnable => readFrame (c.offsetWord .intrEnable)
  | .wrIntrEnable v => writeFrame (c.offsetWord .intrEnable) v
  | .rdIntrTest => readFrame (c.offsetWord .intrTest)
  | .wrIntrTest v => writeFrame (c.offsetWord .intrTest) v
  | .rdAlertTest => readFrame (c.offsetWord .alertTest)
  | .wrAlertTest v => writeFrame (c.offsetWord .alertTest) v
  | .rdStatus => readFrame (c.offsetWord .status)
  | .wrStatus v => writeFrame (c.offsetWord .status) v
  | .rdErrCode k => readFrame (c.offsetWord (.errCode k))
  | .wrErrCode k v => writeFrame (c.offsetWord (.errCode k)) v
  | .rdDaiRegwen => readFrame (c.offsetWord .daiRegwen)
  | .wrDaiRegwen v => writeFrame (c.offsetWord .daiRegwen) v
  | .rdDaiCmd => readFrame (c.offsetWord .daiCmd)
  | .wrDaiCmd v => writeFrame (c.offsetWord .daiCmd) v
  | .rdDaiAddress => readFrame (c.offsetWord .daiAddress)
  | .wrDaiAddress v => writeFrame (c.offsetWord .daiAddress) v
  | .rdDaiWdata0 => readFrame (c.offsetWord .daiWdata0)
  | .wrDaiWdata0 v => writeFrame (c.offsetWord .daiWdata0) v
  | .rdDaiWdata1 => readFrame (c.offsetWord .daiWdata1)
  | .wrDaiWdata1 v => writeFrame (c.offsetWord .daiWdata1) v
  | .rdDaiRdata0 => readFrame (c.offsetWord .daiRdata0)
  | .wrDaiRdata0 v => writeFrame (c.offsetWord .daiRdata0) v
  | .rdDaiRdata1 => readFrame (c.offsetWord .daiRdata1)
  | .wrDaiRdata1 v => writeFrame (c.offsetWord .daiRdata1) v
  | .rdCheckTriggerRegwen => readFrame (c.offsetWord .checkTriggerRegwen)
  | .wrCheckTriggerRegwen v => writeFrame (c.offsetWord .checkTriggerRegwen) v
  | .rdCheckTrigger => readFrame (c.offsetWord .checkTrigger)
  | .wrCheckTrigger v => writeFrame (c.offsetWord .checkTrigger) v
  | .rdCheckRegwen => readFrame (c.offsetWord .checkRegwen)
  | .wrCheckRegwen v => writeFrame (c.offsetWord .checkRegwen) v
  | .rdCheckTimeout => readFrame (c.offsetWord .checkTimeout)
  | .wrCheckTimeout v => writeFrame (c.offsetWord .checkTimeout) v
  | .rdReadLock p => readFrame (c.offsetWord (.readLock p))
  | .wrReadLock p v => writeFrame (c.offsetWord (.readLock p)) v
  | .rdDigest0 p => readFrame (c.offsetWord (.digest0 p))
  | .wrDigest0 p v => writeFrame (c.offsetWord (.digest0 p)) v
  | .rdDigest1 p => readFrame (c.offsetWord (.digest1 p))
  | .wrDigest1 p v => writeFrame (c.offsetWord (.digest1 p)) v
  | .wrd woff => Kind.winRead.code :: (wordBytes (c.windowAddress woff) ++ [4#8])
  | .wwr woff v => Kind.winWrite.code :: (wordBytes (c.windowAddress woff) ++ 4#8 :: wordBytes v)
  | .pwrup => [Kind.pwrup.code]
  | .lcprog st cnt cb =>
    Kind.lcprog.code :: BitVec.ofNat 8 st :: (wordBytes (BitVec.ofNat 32 cnt) ++ wordBytes cb)
  | .lcsig name level => [Kind.lcsig.code, name.code, boolByte level]
  | .getlc => [Kind.getlc.code]
  | .gethw => [Kind.gethw.code]
  | .getkey k => [Kind.getkey.code, BitVec.ofNat 8 k]
  | .entropy bits fips => Kind.entropy.code :: (wordBytes bits ++ [boolByte fips])
  | .alertack i => [Kind.alertack.code, BitVec.ofNat 8 i]
  | .fireDaiDone => [Kind.fireDaiDone.code]
  | .fireLciWordDone => [Kind.fireLciWordDone.code]
  | .fireLciFail cb => Kind.fireLciFail.code :: wordBytes cb
  | .reset => [Kind.reset.code]

/-- The frame for a bare 32-bit word of spec/opcode_table.json, which says neither the initiator nor the
direction: the most specific row is taken, so a word that is a register offset is the read of that register
(mask `0xFFFFFFFF`), and any other word is a `DIRECT_ACCESS_CMD` value (mask at most `0x7`). DESIGN CHOICE,
log 3. -/
def tableFrame (c : Config) (v : Word) : List Byte :=
  match c.regAt v.toNat with
  | some _ => readFrame v
  | none => cmdFrame v

/-- The operation the decoder reads from a bare word of the opcode table (log 3). -/
def decodeTableWord (nbits w : Nat) : Option Instr :=
  if nbits ≤ 32 then
    match decode ex1 (tableFrame ex1 (BitVec.ofNat 32 (w % 2 ^ nbits))) with
    | .ok (i, _) => some i
    | .error _ => none
  else none

end Sys2Proof
end

