-- ==== Sys2Proof/Machine/LcCodec.lean ====
section
/-! DEFINITION. The raw life-cycle encoding (spec/43_lci.md R240 to R242) and the exposed word
(spec/30_encoding.md R122). -/

namespace Sys2Proof

/-- Word `w` of the raw pattern of `(s, t)`: the state region, the count region, zero elsewhere
(spec/43_lci.md R240, R241). Under a configuration that breaks the laws of R240 and R241 the state region wins where the two
overlap, and a table entry or a word that is missing reads 0; a region at an odd offset starts at the next word
(DESIGN CHOICE, log 34). -/
def Config.lcEncodeWord (c : Config) (s t w : Nat) : Half :=
  if c.lcStateOffset ≤ 2 * w ∧ 2 * w < c.lcStateOffset + 2 * c.lcStateWords then
    (c.lcStateCodec.getD s []).getD ((2 * w - c.lcStateOffset) / 2) 0#16
  else if c.lcCntOffset ≤ 2 * w ∧ 2 * w < c.lcCntOffset + 2 * c.lcCntWords then
    (c.lcCntCodec.getD t []).getD ((2 * w - c.lcCntOffset) / 2) 0#16
  else 0#16

/-- `lc_encode(s, t)` (spec/43_lci.md R241). -/
def Config.lcEncode (c : Config) (s t : Nat) : List Half := (List.range c.lcWords).map (c.lcEncodeWord s t)

/-- The state region of a raw pattern; the part of a region that lies outside the partition is missing, and an odd
offset is rounded down (DESIGN CHOICE, log 34). -/
def Config.lcStateRegion (c : Config) (w : List Half) : List Half :=
  (w.drop (c.lcStateOffset / 2)).take c.lcStateWords

/-- The count region of a raw pattern. -/
def Config.lcCntRegion (c : Config) (w : List Half) : List Half :=
  (w.drop (c.lcCntOffset / 2)).take c.lcCntWords

/-- What a raw pattern decodes to (spec/43_lci.md R242). -/
structure LcDecoded where
  state : BitVec 5
  count : Nat
  valid : Bool
  deriving DecidableEq, Repr

/-- `lc_decode(w)` (spec/43_lci.md R242). Of several equal table entries, which law L1 of R241 excludes, the first is taken
(DESIGN CHOICE, log 34). -/
def Config.lcDecode (c : Config) (w : List Half) : LcDecoded :=
  let st := c.lcStateCodec.findIdx? fun e => decide (e = c.lcStateRegion w)
  let cnt := c.lcCntCodec.findIdx? fun e => decide (e = c.lcCntRegion w)
  { state := (st.map (BitVec.ofNat 5)).getD c.lcInvalid
    count := cnt.getD 0
    valid := st.isSome && cnt.isSome }

/-- `lc_word(s)`: the index repeated six times (spec/30_encoding.md R122). -/
def lcWord (s : BitVec 5) : BitVec 30 := s ++ s ++ s ++ s ++ s ++ s

end Sys2Proof
end

