-- ==== Sys2Proof/Machine/Types.lean ====
section
/-! DEFINITION. The types of the block's components (spec/10_state.md), of its answers and of its output events. -/

namespace Sys2Proof.Machine

/-- Error codes (spec/30_encoding.md R110). -/
inductive ErrCode
  | noError | macroError | eccCorrectable | eccUncorrectable | writeBlank | access | checkFail | fsmState
  deriving DecidableEq, Repr

/-- `part[p].fsm` (spec/10_state.md R23). -/
inductive PartFsm
  | reset | idle | error
  deriving DecidableEq, Repr

/-- The runtime state of a partition (spec/10_state.md R23). -/
structure Part where
  fsm : PartFsm
  locked : Bool
  readLock : Bool
  writeLock : Bool
  failed : Bool
  buffer : List Byte
  digest : DWord
  nextDigest : DWord
  deriving DecidableEq, Repr

/-- `dai.fsm` (spec/10_state.md R24). -/
inductive DaiFsm
  | reset | init | idle | read | readWait | write | writeWait | digest | digestWait | error
  deriving DecidableEq, Repr

/-- `dai` (spec/10_state.md R24). -/
structure Dai where
  fsm : DaiFsm
  part : Option Nat
  pending : Bool
  regwenSw : Bool
  address : Word
  wdata0 : Word
  wdata1 : Word
  rdata0 : Word
  rdata1 : Word
  deriving DecidableEq, Repr

/-- `lci.fsm` (spec/10_state.md R25). -/
inductive LciFsm
  | reset | idle | write | writeWait | error
  deriving DecidableEq, Repr

/-- `lci` (spec/10_state.md R25). -/
structure Lci where
  fsm : LciFsm
  buf : List Half
  cursor : Nat
  err : ErrCode
  cb : Option CallbackId
  deriving DecidableEq, Repr

/-- A secret token (spec/10_state.md R26). -/
structure Token where
  value : List Byte
  valid : Bool
  deriving DecidableEq, Repr

/-- `lcinfo` (spec/10_state.md R26). -/
structure LcInfo where
  state : BitVec 5
  count : Nat
  lcValid : Bool
  secretValid : Bool
  testUnlock : Token
  testExit : Token
  rma : Token
  deriving DecidableEq, Repr

/-- `hwcfg` (spec/10_state.md R27). -/
structure HwCfg where
  deviceId : List Byte
  manufState : List Byte
  debugState : List Byte
  sramIfetchEnable : List Byte
  deriving DecidableEq, Repr

/-- `lc_signals` (spec/10_state.md R33). -/
structure LcSignals where
  debugEn : Bool
  escalateEn : Bool
  checkBypEn : Bool
  seedReadEn : Bool
  seedWriteEn : Bool
  deriving DecidableEq, Repr

/-- `pool` (spec/10_state.md R34): the oldest word first. -/
structure Pool where
  words : List Word
  requested : Bool
  deriving DecidableEq, Repr

/-- Pending events (spec/10_state.md R36). -/
inductive Event
  | daiDone
  | lciWordDone
  | lciFail (cb : CallbackId)
  | entropyRequest
  deriving DecidableEq, Repr

/-- The backing file (spec/20_memory.md R60, R70, R72): the bytes before the data region, the persistent copies of the
image's two regions, and the bytes behind them (the padding, and the ECC bytes of a file whose ECC is not enabled). No
operation writes the header or the trailer. -/
structure Backing where
  header : List Byte
  data : Memory
  ecc : Memory
  trailer : List Byte
  deriving DecidableEq, Repr

/-- What an operation returns to its initiator. -/
inductive Answer
  /-- The value of a register or window read (spec/46_registers.md R300, R320). -/
  | data (v : Word)
  /-- A bus error of the window (spec/60_exceptions.md R400). -/
  | busError
  /-- `Ok` or `Busy` of LCPROG (spec/43_lci.md R243). -/
  | lcprog (ok : Bool)
  /-- GETLC's information (spec/47_interfaces.md R343). -/
  | lcInfo (stateWord : BitVec 30) (count : Nat) (lcValid secretValid : Bool) (testUnlock testExit rma : Token)
  /-- GETHW's fields (spec/47_interfaces.md R344). -/
  | hwConfig (cfg : HwCfg)
  /-- GETKEY's triple (spec/45_keyderiv.md R282). The key value has 64 bits for every `KEY_DERIVE`; the spec says so of
  the default alone (R284; DESIGN CHOICE, log 13). -/
  | key (seed : DWord) (nonce : List Word) (valid : Bool)
  deriving DecidableEq, Repr

/-- The output events (spec/47_interfaces.md R350). -/
inductive Output
  | pwrupAck
  | lcAck (cb : CallbackId) (ok : Bool)
  | entropyReq
  | irq (i : Fin 2) (level : Bool)
  | alert (i : Fin 2)
  deriving DecidableEq, Repr

end Sys2Proof.Machine
end

