-- ==== Sys2Proof/Machine/ResetValues.lean ====
section
/-! DEFINITION. The reset value of every component (spec/70_reset_and_hazards.md R450). -/

namespace Sys2Proof.Machine

/-- `part[p]` after reset; an unbuffered partition has no buffer (log 20). -/
def resetPart (c : Config) (p : Nat) : Part :=
  { fsm := .reset, locked := false, readLock := c.seedParts.contains p, writeLock := c.seedParts.contains p,
    failed := false,
    buffer := if (c.desc p).buffered then List.replicate (c.desc p).byteSize 0#8 else [],
    digest := 0#64, nextDigest := 0#64 }

/-- Every partition after reset. -/
def resetParts (c : Config) : List Part := (List.range c.nPart).map (resetPart c)

/-- `dai` after reset. -/
def resetDai : Dai :=
  { fsm := .reset, part := none, pending := false, regwenSw := true, address := 0#32, wdata0 := 0#32,
    wdata1 := 0#32, rdata0 := 0#32, rdata1 := 0#32 }

/-- `lci` after reset. -/
def resetLci (c : Config) : Lci :=
  { fsm := .reset, buf := List.replicate c.lcWords 0#16, cursor := 0, err := .noError, cb := none }

/-- A token after reset. -/
def resetToken (c : Config) : Token := { value := List.replicate c.tokenBytes 0#8, valid := false }

/-- `lcinfo` after reset. -/
def resetLcInfo (c : Config) : LcInfo :=
  { state := c.lcInvalid, count := 0, lcValid := false, secretValid := false, testUnlock := resetToken c,
    testExit := resetToken c, rma := resetToken c }

/-- `hwcfg` after reset. -/
def resetHwCfg (c : Config) : HwCfg :=
  { deviceId := List.replicate c.deviceIdLoc.bytes 0#8, manufState := List.replicate c.manufStateLoc.bytes 0#8,
    debugState := List.replicate c.debugStateLoc.bytes 0#8,
    sramIfetchEnable := List.replicate c.sramIfetchLoc.bytes 0#8 }

/-- `lc_signals` after reset. -/
def resetSignals : LcSignals :=
  { debugEn := false, escalateEn := false, checkBypEn := false, seedReadEn := false, seedWriteEn := false }

/-- `pool` after reset and before its refill. -/
def resetPool : Pool := { words := [], requested := false }

/-- `err` after reset. -/
def resetErr (c : Config) : List ErrCode := List.replicate c.nEntry .noError

/-- `read_en` after reset; the entry of a partition that is not read-lockable is read by nothing (log 20). -/
def resetReadEn (c : Config) : List Bool := List.replicate c.nPart true

end Sys2Proof.Machine
end

