-- ==== Sys2Proof/Machine/State.lean ====
section
/-! DEFINITION. The state of the block (spec/10_state.md R20), the reasons an operation can be refused, and the
state after construction. -/

namespace Sys2Proof.Machine

/-- The state: the tuple of spec/10_state.md R20, the backing file's copy, and the model's own fields. -/
structure State where
  /-- The configuration, fixed for the life of the device (spec/00_scope.md R4; the model's own field, log 1). -/
  cfg : Config
  /-- `image` (R22). -/
  image : Image
  /-- The backing file's copy of the image, if there is a file (spec/20_memory.md R72). -/
  backing : Option Backing
  /-- `part[0..N_PART-1]` (R23). -/
  parts : List Part
  /-- `dai` (R24). -/
  dai : Dai
  /-- `lci` (R25). -/
  lci : Lci
  /-- `lcinfo` (R26). -/
  lcinfo : LcInfo
  /-- `hwcfg` (R27). -/
  hwcfg : HwCfg
  /-- `intr_state` (R28). -/
  intrState : BitVec 2
  /-- `intr_enable` (R28). -/
  intrEnable : BitVec 2
  /-- `alert_latch` (R29). -/
  alertLatch : BitVec 2
  /-- `err[0..N_ENTRY-1]` (R31). -/
  err : List ErrCode
  /-- `read_en` by partition (R32). -/
  readEn : List Bool
  /-- `lc_signals` (R33). -/
  lcSignals : LcSignals
  /-- `pool` (R34). -/
  pool : Pool
  /-- `pending` (R36), in the order scheduled (log 6). -/
  pending : List Event
  /-- Operations presented and not yet executed (the model's own field, log 2). -/
  inbox : List Byte
  /-- What initiators were answered, oldest first (the model's own field, log 9). -/
  answers : List Answer
  /-- The events emitted, oldest first (the model's own field, log 9). -/
  outputs : List Output
  /-- How many free inputs were drawn (the model's own field, log 4). -/
  draws : Nat
  deriving DecidableEq, Repr

/-- The block has no fault of its own: "a bus error is an observable answer, not a model fault" and fatal
conditions are state (spec/60_exceptions.md R401). The type has no constructor. -/
inductive Fault
  deriving DecidableEq, Repr

/-- Why an operation is outside the admitted set (spec/60_exceptions.md R400). -/
inductive Refusal
  /-- Raised by a `Dispatch` arm of an operation without a meaning; there is none. Safe. -/
  | notModelled (mnemonic : String)
  /-- Raised by `step` when the next frame is no operation (spec/30_encoding.md R114). Safe. -/
  | undecodable (e : DecodeError)
  /-- Raised by `step` when the configuration breaks an invariant: "refused: no device"
  (spec/20_memory.md R63). Safe. -/
  | invalidConfig
  /-- Raised by LCPROG, GETKEY and ALERTACK for an operand out of range (spec/93_implementation_defined.md U9,
  U11, U12). Safe. -/
  | operandOutOfRange
  /-- Raised by a register access to a register the configuration does not have (U2). Safe. -/
  | noSuchRegister
  /-- Raised by WRD and WWR for an offset that is not in the window or, for WRD, not 4-aligned (U6). Safe. -/
  | windowOffset
  /-- Raised by FIRE for an event that is not pending (spec/10_state.md R36; log 7). Safe. -/
  | eventNotPending
  deriving DecidableEq, Repr

/-- The state after construction: an image, perhaps a backing file, the reset values, and the refill that ends
a reset (spec/47_interfaces.md R349, spec/70_reset_and_hazards.md R450, R453). -/
def State.constructed (c : Config) (img : Image) (b : Option Backing) : State :=
  { cfg := c, image := img, backing := b, parts := resetParts c, dai := resetDai, lci := resetLci c,
    lcinfo := resetLcInfo c, hwcfg := resetHwCfg c, intrState := 0#2, intrEnable := 0#2, alertLatch := 0#2,
    err := resetErr c, readEn := resetReadEn c, lcSignals := resetSignals,
    pool := { resetPool with requested := decide (0 < c.entropyCap) },
    pending := if 0 < c.entropyCap then [.entropyRequest] else [], inbox := [], answers := [],
    outputs := if 0 < c.entropyCap then [.entropyReq] else [], draws := 0 }

/-- The machine right after reset: EX1 with its initial image and no backing file (log 1). -/
def State.reset : State := State.constructed ex1 ex1.initialImage none

end Sys2Proof.Machine
end

