-- ==== Sys2Proof/Machine/Operands.lean ====
section
/-! DEFINITION. What an operation reads of the state: a partition, a slot, the read value of a register, the
operands of a DAI command, the policy predicates that look at run-time flags. -/

namespace Sys2Proof.Machine

/-- The partition state read for an index outside the table; no rule reads one (log 27). -/
def absentPart : Part :=
  { fsm := .reset, locked := false, readLock := false, writeLock := false, failed := false, buffer := [],
    digest := 0#64, nextDigest := 0#64 }

/-- `part[p]` (spec/10_state.md R23). -/
def State.part (s : State) (p : Nat) : Part := s.parts.getD p absentPart

/-- `err[i]` (spec/10_state.md R31). -/
def State.errAt (s : State) (i : Nat) : ErrCode := s.err.getD i .noError

/-- `read_en[p]` (spec/10_state.md R32). -/
def State.readEnAt (s : State) (p : Nat) : Bool := s.readEn.getD p true

/-- The 3-bit value of an error code (spec/30_encoding.md R110). -/
def ErrCode.code : ErrCode → BitVec 3
  | .noError => 0#3
  | .macroError => 1#3
  | .eccCorrectable => 2#3
  | .eccUncorrectable => 3#3
  | .writeBlank => 4#3
  | .access => 5#3
  | .checkFail => 6#3
  | .fsmState => 7#3

/-- A Boolean as a 32-bit value. -/
def boolWord (b : Bool) : Word := if b then 1#32 else 0#32

/-- `is_readable(p, a)` (spec/20_memory.md R74). -/
def State.isReadable (s : State) (p a : Nat) : Bool :=
  if s.cfg.isDigestAddress p a then true
  else if (s.part p).failed then false
  else if (s.cfg.desc p).readLockable && !s.readEnAt p then false
  else if !(s.cfg.desc p).readLockable && (s.part p).readLock then false
  else if (s.cfg.desc p).secret && decide ((s.part p).digest ≠ 0#64) then false
  else true

/-- `is_writable(p)` (spec/20_memory.md R75). -/
def State.isWritable (s : State) (p : Nat) : Bool :=
  !(s.part p).locked && !((s.cfg.desc p).writeLockable && (s.part p).writeLock) && !(s.part p).failed

/-- The partition of a DAI command at `a` that the DAI may touch: none for no partition and for the
life-cycle partition (spec/42_dai.md R205, R210, R215). -/
def State.daiTarget (s : State) (a : Nat) : Option Nat :=
  match s.cfg.partitionOf a with
  | some p => if s.cfg.isLc p then none else some p
  | none => none

/-- The 64-bit write data, `WDATA_1` the high half (spec/20_memory.md R76). -/
def State.writeData (s : State) : DWord := s.dai.wdata1 ++ s.dai.wdata0

/-- The bytes of partition `p` in storage (spec/41_digest.md R178). -/
def State.storedBytes (s : State) (p : Nat) : List Byte :=
  s.image.data.bytes (s.cfg.desc p).byteOffset (s.cfg.desc p).byteSize

/-- The bytes `o .. o+n-1` of a byte string; a byte past its end reads 0 (DESIGN CHOICE, log 31: the locations of a
configuration may name one, and the spec gives it no value). -/
def bytesAt (src : List Byte) (o n : Nat) : List Byte := (List.range n).map fun i => src.getD (o + i) 0#8

/-- The key seed `sd` of a key type (spec/45_keyderiv.md R282): `KEY_BYTES` bytes from `KEY_SEED_LOC`, of the buffer of
a buffered partition, else of storage. A seed that runs past the end of its partition reads zero bytes behind a
buffer, and the storage bytes that follow an unbuffered partition (DESIGN CHOICE, log 31). -/
def State.keySeed (s : State) (kt : KeyType) : List Byte :=
  if (s.cfg.desc kt.seedPart).buffered then bytesAt (s.part kt.seedPart).buffer kt.seedOffset kt.keyBytes
  else s.image.data.bytes ((s.cfg.desc kt.seedPart).byteOffset + kt.seedOffset) kt.keyBytes

end Sys2Proof.Machine
end

