-- ==== Sys2Proof/Machine/Flags.lean ====
section
/-! DEFINITION. The status flags of the block: STATUS and ERR_CODE bits, the write enable, interrupt and alert
lines (spec/10_state.md R28, R29, R39; spec/46_registers.md R305 to R308, R319). -/

namespace Sys2Proof.Machine

/-- `regwen()` (spec/30_encoding.md R107). -/
def State.regwen (s : State) : Bool := s.dai.regwenSw && decide (s.dai.fsm = .idle)

/-- `STATUS` (spec/46_registers.md R305): bits at or above 32 of a large configuration fall away (log 26). -/
def State.status (s : State) : Word :=
  (List.range s.cfg.nEntry).foldl
    (fun v i => if s.errAt i = .noError then v else v ||| (1#32) <<< i)
    (boolWord (decide (s.dai.fsm = .idle)) <<< s.cfg.nEntry)

/-- `ERR_CODE_k` (spec/46_registers.md R307). -/
def State.errCodeReg (s : State) (k : Nat) : Word :=
  (List.range s.cfg.nEntry).foldl
    (fun v i => if i / 10 = k then v ||| ((s.errAt i).code.setWidth 32) <<< (3 * (i % 10)) else v) 0#32

/-- `otp_operation_done`, bit 0 (spec/30_encoding.md R103). -/
def doneBit : BitVec 2 := 1#2
/-- `otp_error`, bit 1 (spec/30_encoding.md R103). -/
def errorBit : BitVec 2 := 2#2
/-- `fatal_macro_error`, bit 0 (spec/30_encoding.md R104). -/
def macroAlert : BitVec 2 := 1#2
/-- `fatal_check_error`, bit 1 (spec/30_encoding.md R104). -/
def checkAlert : BitVec 2 := 2#2

/-- The alert a recorded code latches (spec/60_exceptions.md R410). -/
def alertOf : ErrCode → BitVec 2
  | .eccUncorrectable => macroAlert
  | .checkFail => checkAlert
  | .fsmState => checkAlert
  | .noError => 0#2
  | .macroError => 0#2
  | .eccCorrectable => 0#2
  | .writeBlank => 0#2
  | .access => 0#2

/-- The interrupt a recorded code raises: every code but NoError (spec/60_exceptions.md R410). -/
def interruptOf (code : ErrCode) : BitVec 2 := if code = .noError then 0#2 else errorBit

/-- The level of interrupt line `i` (spec/10_state.md R28). -/
def State.irqLevel (s : State) (i : Fin 2) : Bool := (s.intrState &&& s.intrEnable).getLsbD i.val

/-- The IRQ event of line `i` between two states, if its level changed (spec/46_registers.md R319). -/
def irqEvents (before after : State) (i : Fin 2) : List Output :=
  if before.irqLevel i = after.irqLevel i then [] else [.irq i (after.irqLevel i)]

/-- The ALERT event of latch `i`, if it went from 0 to 1 (spec/46_registers.md R319). -/
def alertEvents (before after : State) (i : Fin 2) : List Output :=
  if after.alertLatch.getLsbD i.val && !before.alertLatch.getLsbD i.val then [.alert i] else []

/-- The events `update_outputs()` emits at the end of an operation (spec/46_registers.md R319); "the level last
emitted" is the level before the operation (DEDUCED, log 9). -/
def outputChanges (before after : State) : List Output :=
  irqEvents before after 0 ++ irqEvents before after 1 ++ alertEvents before after 0 ++ alertEvents before after 1

/-- The read value of a register (spec/46_registers.md R302). -/
def State.readValue (s : State) : Reg → Word
  | .intrState => s.intrState.setWidth 32
  | .intrEnable => s.intrEnable.setWidth 32
  | .intrTest => 0#32
  | .alertTest => 0#32
  | .status => s.status
  | .errCode k => s.errCodeReg k
  | .daiRegwen => boolWord s.regwen
  | .daiCmd => 0#32
  | .daiAddress => s.dai.address
  | .daiWdata0 => s.dai.wdata0
  | .daiWdata1 => s.dai.wdata1
  | .daiRdata0 => s.dai.rdata0
  | .daiRdata1 => s.dai.rdata1
  | .checkTriggerRegwen => 0#32
  | .checkTrigger => 0#32
  | .checkRegwen => 0#32
  | .checkTimeout => 0#32
  | .readLock p => boolWord (s.readEnAt p)
  | .digest0 p => (s.part p).digest.extractLsb' 0 32
  | .digest1 p => (s.part p).digest.extractLsb' 32 32

end Sys2Proof.Machine
end

