-- ==== Sys2Proof/Machine/Ops.lean ====
section
/-! DEFINITION. The named operations over the state that the meanings share: updates of one component, recording
an error, events and answers, persistence, the shared ends of an operation, escalation and reset. -/

namespace Sys2Proof.Machine

/-- Change partition `p`. -/
def State.updPart (p : Nat) (f : Part → Part) (s : State) : State := { s with parts := s.parts.modify p f }

/-- Change the DAI. -/
def State.mapDai (f : Dai → Dai) (s : State) : State := { s with dai := f s.dai }

/-- Change the LCI. -/
def State.mapLci (f : Lci → Lci) (s : State) : State := { s with lci := f s.lci }

/-- Change the storage image. -/
def State.setImage (img : Image) (s : State) : State := { s with image := img }

/-- A plain slot write, which raises no interrupt (spec/60_exceptions.md R411). -/
def State.setErr (slot : Nat) (code : ErrCode) (s : State) : State := { s with err := s.err.set slot code }

/-- `record(slot, code)` (spec/60_exceptions.md R410). -/
def State.record (slot : Nat) (code : ErrCode) (s : State) : State :=
  { s with err := s.err.set slot code, intrState := s.intrState ||| interruptOf code,
           alertLatch := s.alertLatch ||| alertOf code }

/-- `intr_state.otp_operation_done <- 1`. -/
def State.raiseDone (s : State) : State := { s with intrState := s.intrState ||| doneBit }

/-- `schedule(ev)` (spec/10_state.md R36). -/
def State.schedule (e : Event) (s : State) : State := { s with pending := s.pending ++ [e] }

/-- Remove one occurrence of an event from the pending ones (spec/10_state.md R36). -/
def State.unschedule (e : Event) (s : State) : State := { s with pending := s.pending.erase e }

/-- `emit`. -/
def State.emit (o : Output) (s : State) : State := { s with outputs := s.outputs ++ [o] }

/-- Return a value to the initiator. -/
def State.answer (a : Answer) (s : State) : State := { s with answers := s.answers ++ [a] }

/-- `refill()` (spec/45_keyderiv.md R283); `EntropyRequest` is pending exactly while requested (R280). -/
def State.refill (s : State) : State :=
  if s.pool.words.length < s.cfg.entropyCap ∧ s.pool.requested = false then
    { s with pool := { s.pool with requested := true }, pending := s.pending ++ [.entropyRequest],
             outputs := s.outputs ++ [.entropyReq] }
  else s

/-- `update_outputs()` at the end of an operation that began in `before` (spec/46_registers.md R319). -/
def State.updateOutputs (before s : State) : State := { s with outputs := s.outputs ++ outputChanges before s }

/-- The end of every operation: a next state with its outputs updated. -/
def complete (before after : State) : Host.Outcome State Fault Refusal := .next (State.updateOutputs before after)

/-- The backing file's copy after the write-back of the `n` bytes at `a` succeeded (spec/20_memory.md R72). -/
def Backing.written (b : Backing) (img : Image) (a n : Nat) : Backing :=
  { b with
    data := b.data.copyRange img.data a n,
    ecc := if img.eccEnabled then b.ecc.copyRange img.ecc (a / 2) (n / 2) else b.ecc }

/-- The copy after draw `d` failed: the bytes that were to be written are free values (log 5). -/
def Backing.torn (b : Backing) (img : Image) (d a n : Nat) : Backing :=
  { b with
    data := b.data.setBytes a ((List.range n).map fun k => Config.tornData d (a + k)),
    ecc := if img.eccEnabled then b.ecc.setBytes (a / 2) ((List.range (n / 2)).map fun k => Config.tornEcc d (a / 2 + k))
           else b.ecc }

/-- Whether persisting in this state succeeds: always without a backing file, else the draw `persist_ok`
(spec/20_memory.md R72). -/
def State.persistOk (s : State) : Bool := s.backing.isNone || Config.persistOk s.draws

/-- Write the changed bytes back, if there is a backing file, using one draw (spec/20_memory.md R72). -/
def State.persist (a n : Nat) (s : State) : State :=
  match s.backing with
  | none => s
  | some b =>
    { s with draws := s.draws + 1,
             backing := some (if Config.persistOk s.draws then b.written s.image a n else b.torn s.image s.draws a n) }

/-- `persist()` of a DAI command (spec/42_dai.md R212). -/
def State.persistDai (a n : Nat) (s : State) : State :=
  if s.persistOk then s.persist a n else (s.persist a n).record s.cfg.daiSlot .macroError

/-- `reject(code)` (spec/42_dai.md R203): the recoverable end of an accepted DAI command. -/
def State.reject (code : ErrCode) (s : State) : State :=
  ((s.record s.cfg.daiSlot code).mapDai fun d => { d with fsm := .idle, part := none }).raiseDone

/-- `fatal(code)` (spec/42_dai.md R204): the DAI enters Error, with no done interrupt. -/
def State.fatal (code : ErrCode) (s : State) : State :=
  (s.record s.cfg.daiSlot code).mapDai fun d => { d with fsm := .error, part := none }

/-- The DAI returns to Idle with the done interrupt (spec/42_dai.md R205, R220). -/
def State.daiFinish (s : State) : State := (s.mapDai fun d => { d with fsm := .idle, part := none }).raiseDone

/-- The DAI waits for its completion event (spec/42_dai.md R205, R210, R215). -/
def State.daiWait (p : Nat) (w : DaiFsm) (s : State) : State :=
  (s.mapDai fun d => { d with part := some p, fsm := w, pending := true }).schedule .daiDone

/-- `record(i, code)` for every slot of a list, in order. -/
def State.recordAll (slots : List Nat) (code : ErrCode) (s : State) : State :=
  slots.foldl (fun s i => s.record i code) s

/-- `escalate()` (spec/60_exceptions.md R425). -/
def State.escalate (s : State) : State :=
  State.recordAll (List.range s.cfg.nEntry) .fsmState
    { s with dai := { s.dai with fsm := .error }, lci := { s.lci with fsm := .error },
             parts := s.parts.map fun q => { q with fsm := .error } }

/-- `window_uncorrectable(p)` (spec/46_registers.md R321). -/
def State.windowUncorrectable (p : Nat) (s : State) : State :=
  (s.record p .eccUncorrectable).updPart p fun q => { q with failed := true, fsm := .error }

/-- `update_seed_locks()` for one partition (spec/47_interfaces.md R341). -/
def State.seedLock (s : State) (p : Nat) : State :=
  s.updPart p fun q => { q with readLock := !s.lcSignals.seedReadEn, writeLock := !s.lcSignals.seedWriteEn }

/-- `update_seed_locks()` (spec/47_interfaces.md R341). -/
def State.updateSeedLocks (s : State) : State := s.cfg.seedParts.foldl State.seedLock s

/-- The reset values (spec/70_reset_and_hazards.md R450), before the refill: `image`, the backing file, the
configuration and the model's own fields are kept. -/
def State.cleared (s : State) : State :=
  { s with parts := resetParts s.cfg, dai := resetDai, lci := resetLci s.cfg, lcinfo := resetLcInfo s.cfg,
           hwcfg := resetHwCfg s.cfg, intrState := 0#2, intrEnable := 0#2, alertLatch := 0#2,
           err := resetErr s.cfg, readEn := resetReadEn s.cfg, lcSignals := resetSignals, pool := resetPool,
           pending := [] }

/-- The device reset: the reset values, then the refill (spec/70_reset_and_hazards.md R450, R453). -/
def State.resetDevice (s : State) : State := s.cleared.refill

end Sys2Proof.Machine
end

