-- ==== Sys2Proof/Machine/Collab.lean ====
section
/-! DEFINITION. The remaining collaborator operations: the software-config window (spec/46_registers.md R320 to R322),
key derivation (spec/45_keyderiv.md), life-cycle signals, queries and alert acknowledgement
(spec/47_interfaces.md), and the device reset (spec/70_reset_and_hazards.md R450). -/

namespace Sys2Proof.Machine

/-- The partition a window read at `a` may read: the policy of rule R320 (spec/46_registers.md), none for each
policy bus error. -/
def State.windowTarget (s : State) (a : Nat) : Option Nat :=
  match s.cfg.partitionOf a with
  | none => none
  | some p =>
    if s.cfg.isLc p then none
    else if s.cfg.isBuffered p then none
    else if (s.part p).fsm ≠ .idle then none
    else if s.cfg.isDigestAddress p a then none
    else if s.isReadable p a then some p
    else none

/-- A window read at `a` (spec/46_registers.md R320, R321). -/
def windowRead (a : Nat) (s : State) : State :=
  match s.windowTarget a with
  | none => s.answer .busError
  | some p =>
    let r := s.cfg.eccCheck32 s.image a
    match r.2 with
    | .uncorrectable => (s.windowUncorrectable p).answer .busError
    | .corrected => (s.record p .eccCorrectable).answer (.data r.1)
    | .clean => s.answer (.data r.1)

/-- WRD woff: 4-aligned and below `SW_WINDOW_SIZE`, else refused (spec/46_registers.md R320). -/
def execWrd (woff : Word) (s : State) : Host.Outcome State Fault Refusal :=
  if woff.toNat % 4 = 0 ∧ woff.toNat < s.cfg.swWindowSize then complete s (windowRead woff.toNat s)
  else .refused .windowOffset

/-- WWR woff, v: a bus error, and no state changes (spec/46_registers.md R322; log 15). -/
def execWwr (woff _v : Word) (s : State) : Host.Outcome State Fault Refusal :=
  if woff.toNat < s.cfg.swWindowSize then complete s (s.answer .busError) else .refused .windowOffset

/-- `take()`: the oldest word, or a filler draw (spec/45_keyderiv.md R280). -/
def State.takeWord (s : State) : Word × State :=
  match s.pool.words with
  | w :: ws => (w, { s with pool := { s.pool with words := ws } })
  | [] => (Config.fillerWord s.draws, { s with draws := s.draws + 1 })

/-- `n` words taken in order (spec/45_keyderiv.md R282). -/
def State.takeWords : Nat → State → List Word × State
  | 0, s => ([], s)
  | n + 1, s =>
    let r := s.takeWord
    let t := State.takeWords n r.2
    (r.1 :: t.1, t.2)

/-- The validity of a key from partition `q` (spec/45_keyderiv.md R282). -/
def State.keyValid (s : State) (q : Nat) : Bool :=
  (s.part q).locked && !(s.part q).failed && decide ((s.part q).fsm ≠ .error)

/-- `get_key` for a key type (spec/45_keyderiv.md R282). -/
def getKey (k : Nat) (kt : KeyType) (s : State) : State :=
  let nonce := State.takeWords kt.nonceWords s
  let ent := State.takeWords kt.entropyWords nonce.2
  let seed := s.cfg.deriveKey k (s.keySeed kt) ent.1 s.image.digestIv
  ent.2.refill.answer (.key seed nonce.1 (s.keyValid kt.seedPart))

/-- GETKEY k: a key type that is not a member of `KEY_TYPES` is refused (spec/45_keyderiv.md R282). -/
def execGetkey (k : Nat) (s : State) : Host.Outcome State Fault Refusal :=
  match s.cfg.keyTypes[k]? with
  | some kt => complete s (getKey k kt s)
  | none => .refused .operandOutOfRange

/-- An entropy delivery (spec/45_keyderiv.md R281): the request is answered, a word beyond capacity is dropped. -/
def deliverEntropy (bits : Word) (s : State) : State :=
  let words := if s.pool.words.length < s.cfg.entropyCap then s.pool.words ++ [bits] else s.pool.words
  State.refill { s with pool := { words := words, requested := false }, pending := s.pending.erase .entropyRequest }

/-- ENTROPY bits, fips: `fips` is not stored or checked (spec/45_keyderiv.md R281). -/
def execEntropy (bits : Word) (_fips : Bool) (s : State) : Host.Outcome State Fault Refusal :=
  complete s (deliverEntropy bits s)

/-- A signal's level written (spec/47_interfaces.md R340). -/
def LcSignals.write (n : LcSignal) (b : Bool) (g : LcSignals) : LcSignals :=
  match n with
  | .debugEn => { g with debugEn := b }
  | .escalateEn => { g with escalateEn := b }
  | .checkBypEn => { g with checkBypEn := b }
  | .seedReadEn => { g with seedReadEn := b }
  | .seedWriteEn => { g with seedWriteEn := b }

/-- A life-cycle signal takes a level (spec/47_interfaces.md R340). -/
def lcSignal (n : LcSignal) (b : Bool) (s : State) : State :=
  let s1 := { s with lcSignals := LcSignals.write n b s.lcSignals }
  match n with
  | .debugEn => s1
  | .checkBypEn => s1
  | .seedReadEn => s1.updateSeedLocks
  | .seedWriteEn => s1.updateSeedLocks
  | .escalateEn => if b && !s.lcSignals.escalateEn then s1.escalate else s1

/-- LCSIG name, b (spec/47_interfaces.md R340). -/
def execLcsig (n : LcSignal) (b : Bool) (s : State) : Host.Outcome State Fault Refusal :=
  complete s (lcSignal n b s)

/-- GETLC (spec/47_interfaces.md R343). -/
def execGetlc (s : State) : Host.Outcome State Fault Refusal :=
  complete s (s.answer (.lcInfo (lcWord s.lcinfo.state) s.lcinfo.count s.lcinfo.lcValid s.lcinfo.secretValid
    s.lcinfo.testUnlock s.lcinfo.testExit s.lcinfo.rma))

/-- GETHW (spec/47_interfaces.md R344). -/
def execGethw (s : State) : Host.Outcome State Fault Refusal := complete s (s.answer (.hwConfig s.hwcfg))

/-- ALERTACK i (spec/47_interfaces.md R346); an index other than 0 and 1 is refused
(spec/93_implementation_defined.md U12). -/
def execAlertack (i : Nat) (s : State) : Host.Outcome State Fault Refusal :=
  if i < 2 then complete s { s with alertLatch := s.alertLatch &&& ~~~((1#2) <<< i) }
  else .refused .operandOutOfRange

/-- RESET (spec/70_reset_and_hazards.md R450). -/
def execReset (s : State) : Host.Outcome State Fault Refusal := complete s s.resetDevice

end Sys2Proof.Machine
end

