-- ==== Sys2Proof/Machine/DaiUnit.lean ====
section
/-! DEFINITION. The Direct Access Interface (spec/42_dai.md): commands, completion, and the command register. -/

namespace Sys2Proof.Machine

/-- The prologue of an accepted command: the DAI slot is cleared and the DAI enters `x` (spec/42_dai.md R202). -/
def State.daiAccept (x : DaiFsm) (s : State) : State :=
  (s.setErr s.cfg.daiSlot .noError).mapDai fun d => { d with fsm := x }

/-- A successful read's end: publish the data, record a correction, finish or wait (spec/42_dai.md R205). -/
def State.daiPublish (p : Nat) (v : DWord) (sev : Severity) (s : State) : State :=
  let s1 := s.mapDai fun d => { d with rdata0 := v.extractLsb' 0 32, rdata1 := v.extractLsb' 32 32 }
  let s2 := if sev = .corrected then s1.record s1.cfg.daiSlot .eccCorrectable else s1
  if s2.cfg.isBuffered p then s2.daiFinish else s2.daiWait p .readWait

/-- An accepted RD (spec/42_dai.md R205, R206). -/
def daiRead (s : State) : State :=
  let a := s.dai.address.toNat
  let s1 := s.daiAccept .read
  match s1.daiTarget a with
  | none => s1.reject .access
  | some p =>
    if s1.isReadable p a then
      let r := s1.cfg.daiValue s1.image p a
      if r.2 = .uncorrectable then s1.fatal .eccUncorrectable else s1.daiPublish p r.1 r.2
    else s1.reject .access

/-- Program the write data at a DAI address: wide or 32-bit (spec/42_dai.md R210). -/
def State.daiProgram (s : State) (p a : Nat) : Image × Bool :=
  if s.cfg.isWideGranule p a then s.cfg.program64 s.image (alignDown a 8) s.writeData
  else s.cfg.program32 s.image (alignDown a 4) s.dai.wdata0

/-- A programmed image taken over, with a blank-write error recorded in the DAI slot and the bytes persisted
(spec/42_dai.md R210, R212, R222). -/
def State.daiStore (r : Image × Bool) (a n : Nat) (s : State) : State :=
  let s1 := s.setImage r.1
  let s2 := if r.2 then s1.record s1.cfg.daiSlot .writeBlank else s1
  s2.persistDai a n

/-- The checks of an accepted WR on partition `p`, in the order of rule R210 (spec/42_dai.md R210, R211): the
code to reject with, or none. -/
def State.writeRefusal (s : State) (p a : Nat) : Option ErrCode :=
  if (s.cfg.desc p).hwDigest && s.cfg.isDigestAddress p a then some .access
  else if !s.isWritable p then some .access
  else if !s.cfg.backendWritable then some .macroError
  else none

/-- An accepted WR (spec/42_dai.md R210). -/
def daiWrite (s : State) : State :=
  let a := s.dai.address.toNat
  let s1 := s.daiAccept .write
  match s1.daiTarget a with
  | none => s1.reject .access
  | some p =>
    match s1.writeRefusal p a with
    | some code => s1.reject code
    | none =>
      (s1.daiStore (s1.daiProgram p a) (s1.cfg.daiAddress p a) (s1.cfg.daiWidth p a)).daiWait p .writeWait

/-- The checks of an accepted DIGEST on partition `p` (spec/42_dai.md R215). -/
def State.digestRefusal (s : State) (p : Nat) : Option ErrCode :=
  if !(s.cfg.desc p).hwDigest then some .access
  else if !s.isWritable p then some .access
  else if !s.cfg.backendWritable then some .macroError
  else none

/-- An accepted DIGEST (spec/42_dai.md R215, R216). -/
def daiDigest (s : State) : State :=
  let a := s.dai.address.toNat
  let s1 := s.daiAccept .digest
  match s1.daiTarget a with
  | none => s1.reject .access
  | some p =>
    match s1.digestRefusal p with
    | some code => s1.reject code
    | none =>
      (s1.updPart p fun q =>
        { q with nextDigest := s1.cfg.partDigest s1.image p (s1.storedBytes p) }).daiWait p .digestWait

/-- The acceptance gate (spec/42_dai.md R201): a command has an effect only while `regwen()` is 1. -/
def daiGate (f : State → State) (s : State) : State := if s.regwen then f s else s

/-- DAI.RD. -/
def execDaiRd (_ign : BitVec 31) (s : State) : Host.Outcome State Fault Refusal := complete s (daiGate daiRead s)

/-- DAI.WR. -/
def execDaiWr (_ign : BitVec 30) (s : State) : Host.Outcome State Fault Refusal := complete s (daiGate daiWrite s)

/-- DAI.DIGEST. -/
def execDaiDigest (_ign : BitVec 29) (s : State) : Host.Outcome State Fault Refusal :=
  complete s (daiGate daiDigest s)

/-- DAI.NONE: no effect, even when accepted (spec/42_dai.md R224). -/
def execDaiNone (_ign : BitVec 29) (s : State) : Host.Outcome State Fault Refusal := complete s s

/-- The command a value selects, the lowest set bit first (spec/30_encoding.md R108). -/
def daiCommand (v : Word) (s : State) : State :=
  if v.getLsbD 0 then daiRead s
  else if v.getLsbD 1 then daiWrite s
  else if v.getLsbD 2 then daiDigest s
  else s

/-- WR DIRECT_ACCESS_CMD (spec/46_registers.md R309). -/
def execWrDaiCmd (v : Word) (s : State) : Host.Outcome State Fault Refusal := complete s (daiGate (daiCommand v) s)

/-- `commit_digest()` (spec/42_dai.md R222). With no partition in service, which the block never shows in
DigestWait, there is nothing to commit (log 18). -/
def State.commitDigest (s : State) : State :=
  match s.dai.part with
  | none => s
  | some p =>
    s.daiStore (s.cfg.program64 s.image (s.cfg.desc p).digestOffset (s.part p).nextDigest)
      (s.cfg.desc p).digestOffset 8

/-- `DaiDone` fires (spec/42_dai.md R220, R221). -/
def daiDone (s : State) : State :=
  let s1 := (s.unschedule .daiDone).mapDai fun d => { d with pending := false }
  match s1.dai.fsm with
  | .error => s1
  | .digestWait => s1.commitDigest.daiFinish
  | _ => s1.daiFinish

/-- FIRE DaiDone: only a pending event fires (spec/10_state.md R36; log 7). -/
def execFireDaiDone (s : State) : Host.Outcome State Fault Refusal :=
  if Event.daiDone ∈ s.pending then complete s (daiDone s) else .refused .eventNotPending

end Sys2Proof.Machine
end

