-- ==== Sys2Proof/Machine/LciUnit.lean ====
section
/-! DEFINITION. The Life-Cycle Interface (spec/43_lci.md). -/

namespace Sys2Proof.Machine

/-- The first error of a request is kept (spec/43_lci.md R244). -/
def Lci.accumulate (code : ErrCode) (l : Lci) : Lci := if l.err = .noError then { l with err := code } else l

/-- What programming the word at the cursor leaves in storage, and its error code (spec/43_lci.md R244). A word past the
end of `lci.buf`, which only a life-cycle partition of no words has, is 0 (DESIGN CHOICE, log 36). -/
def State.lciProgram (s : State) : Image × ErrCode :=
  if s.cfg.backendWritable then
    let r := s.cfg.program16 s.image (s.cfg.lcAddress s.lci.cursor) (s.lci.buf.getD s.lci.cursor 0#16)
    (r.1, if r.2 then .writeBlank else .noError)
  else (s.image, .macroError)

/-- `lci_write_word()` (spec/43_lci.md R244). -/
def State.lciWriteWord (s : State) : State :=
  let r := s.lciProgram
  ((s.setImage r.1).mapLci fun l => { l.accumulate r.2 with fsm := .writeWait }).schedule .lciWordDone

/-- A request taken up by an idle LCI (spec/43_lci.md R243). -/
def State.lciStart (st cnt : Nat) (cb : CallbackId) (s : State) : State :=
  ((s.setErr s.cfg.lcSlot .noError).mapLci fun _ =>
    { fsm := .write, buf := s.cfg.lcEncode st cnt, cursor := 0, err := .noError, cb := some cb }).lciWriteWord

/-- LCPROG s, t, cb (spec/43_lci.md R243); operands out of range are refused (spec/30_encoding.md R142). -/
def execLcprog (st cnt : Nat) (cb : CallbackId) (s : State) : Host.Outcome State Fault Refusal :=
  if s.cfg.lcProgrammable st = true ∧ cnt ≤ s.cfg.lcCntMax then
    match s.lci.fsm with
    | .reset => complete s (s.answer (.lcprog false))
    | .write => complete s (s.answer (.lcprog false))
    | .writeWait => complete s (s.answer (.lcprog false))
    | .error => complete s ((s.schedule (.lciFail cb)).answer (.lcprog true))
    | .idle => complete s ((s.lciStart st cnt cb).answer (.lcprog true))
  else .refused .operandOutOfRange

/-- The bytes a request has programmed so far: words `0 .. cursor`, and none on a backend that is not writable
(spec/43_lci.md R244; log 5). -/
def State.lciChanged (s : State) : Nat := if s.cfg.backendWritable then 2 * min (s.lci.cursor + 1) s.cfg.lcWords else 0

/-- `persist_lci()` (spec/43_lci.md R246). -/
def State.persistLci (s : State) : State :=
  let s1 := s.persist (s.cfg.lcAddress 0) s.lciChanged
  if s.persistOk then s1 else s1.mapLci (Lci.accumulate .macroError)

/-- `emit LCACK(lci.cb, ok)` and `lci.cb <- none` (spec/43_lci.md R245). With no callback held there is nobody to
acknowledge (log 18). -/
def State.lciAck (ok : Bool) (s : State) : State :=
  match s.lci.cb with
  | some cb => (s.emit (.lcAck cb ok)).mapLci fun l => { l with cb := none }
  | none => s

/-- The end of a request (spec/43_lci.md R245). -/
def State.lciFinish (s : State) : State :=
  let s1 := s.persistLci
  let s2 := if s1.lci.err = .noError then s1 else s1.record s1.cfg.lcSlot s1.lci.err
  (s2.mapLci fun l => { l with fsm := .idle }).lciAck (decide (s2.lci.err = .noError))

/-- `LciWordDone` fires (spec/43_lci.md R245). -/
def lciWordDone (s : State) : State :=
  let s1 := s.unschedule .lciWordDone
  if s1.lci.fsm = .error then s1.persistLci.lciAck false
  else
    let s2 := s1.mapLci fun l => { l with cursor := l.cursor + 1 }
    if s2.lci.cursor < s2.cfg.lcWords then (s2.mapLci fun l => { l with fsm := .write }).lciWriteWord
    else s2.lciFinish

/-- FIRE LciWordDone (spec/43_lci.md R245; log 7). -/
def execFireLciWordDone (s : State) : Host.Outcome State Fault Refusal :=
  if Event.lciWordDone ∈ s.pending then complete s (lciWordDone s) else .refused .eventNotPending

/-- FIRE LciFail(cb) (spec/43_lci.md R247; log 7). -/
def execFireLciFail (cb : CallbackId) (s : State) : Host.Outcome State Fault Refusal :=
  if Event.lciFail cb ∈ s.pending then complete s ((s.unschedule (.lciFail cb)).emit (.lcAck cb false))
  else .refused .eventNotPending

end Sys2Proof.Machine
end

