-- ==== Sys2Proof/Machine/PowerUp.lean ====
section
/-! DEFINITION. The buffered-partition integrity manager (spec/44_powerup.md). -/

namespace Sys2Proof.Machine

/-- The state, the working copy so far, and whether the partition is still being processed. -/
structure Pass where
  state : State
  copy : List Byte
  alive : Bool
  deriving DecidableEq, Repr

/-- One granule of the ECC pass (spec/44_powerup.md R261). The working copy of a partition that fails here stays
incomplete; nothing reads it (R265 to R267). The granules of a partition at an odd `byte_offset` use the ECC bytes that
`Image.eccRead` names (DESIGN CHOICE, log 35). -/
def eccGranule (p : Nat) (w : Pass) (g : Nat) : Pass :=
  if w.alive then
    let r := w.state.cfg.eccCheck16 w.state.image g
    match r.2 with
    | .clean => { w with copy := w.copy ++ halfBytes r.1 }
    | .corrected => { w with copy := w.copy ++ halfBytes r.1, state := w.state.record p .eccCorrectable }
    | .uncorrectable =>
      { state := (w.state.updPart p fun q => { q with failed := true, fsm := .error }).record p .eccUncorrectable,
        copy := w.copy ++ halfBytes r.1, alive := false }
  else w

/-- The ECC pass of partition `p` (spec/44_powerup.md R261). With ECC disabled the check never reports an error
and the copy is the stored bytes (spec/40_ecc.md R160). -/
def eccPass (p : Nat) (s : State) : Pass :=
  (s.cfg.desc p).granules.foldl (eccGranule p) { state := s, copy := [], alive := true }

/-- `verify_buffered(p)` (spec/44_powerup.md R263). -/
def State.verifyBuffered (p : Nat) (s : State) : State :=
  if (s.part p).digest = 0#64 then s
  else if s.cfg.partDigest s.image p (s.part p).buffer = (s.part p).digest then
    s.updPart p fun q => { q with locked := true }
  else (s.updPart p fun q => { q with failed := true, locked := true, fsm := .error }).record p .checkFail

/-- Digest and buffer load of partition `p` with working copy `wc` (spec/44_powerup.md R262). -/
def State.loadPartition (p : Nat) (wc : List Byte) (s : State) : State :=
  let d := s.cfg.desc p
  let s1 := if d.hasDigest then s.updPart p fun q => { q with digest := le64 wc (d.byteSize - 8) } else s
  let s2 := if d.swDigest then s1.updPart p fun q => { q with locked := decide (q.digest ≠ 0#64) } else s1
  let s3 :=
    if d.buffered then
      let t := s2.updPart p fun q => { q with buffer := wc }
      if d.hwDigest then t.verifyBuffered p else t
    else if d.hwDigest then s2.updPart p fun q => { q with locked := decide (q.digest ≠ 0#64) }
    else s2
  s3.updPart p fun q => if q.fsm = .error then q else { q with fsm := .idle }

/-- `powerup_partition(p)` (spec/44_powerup.md R261 to R263): the state and the working copy. -/
def powerupPartition (p : Nat) (s : State) : State × List Byte :=
  let w := eccPass p s
  (if w.alive then w.state.loadPartition p w.copy else w.state, w.copy)

/-- Every partition in index order: the state and the working copies (spec/44_powerup.md R260). -/
def powerupParts (s : State) : State × List (List Byte) :=
  (List.range s.cfg.nPart).foldl
    (fun acc p => let r := powerupPartition p acc.1; (r.1, acc.2 ++ [r.2])) (s, [])

/-- `n` bytes at `o` of partition `q`'s working copy, or zeros if the partition failed
(spec/44_powerup.md R266, R267). -/
def State.fieldOf (s : State) (wcs : List (List Byte)) (q o n : Nat) : List Byte :=
  if (s.part q).failed then List.replicate n 0#8 else bytesAt (wcs.getD q []) o n

/-- Locked and not failed (spec/44_powerup.md R265, R267). -/
def State.secured (s : State) (q : Nat) : Bool := (s.part q).locked && !(s.part q).failed

/-- The decode of the life-cycle partition's working copy (spec/44_powerup.md R265). -/
def State.lcDecoded (s : State) (wcs : List (List Byte)) : LcDecoded :=
  if (s.part s.cfg.lcPart).failed then { state := s.cfg.lcInvalid, count := 0, valid := false }
  else s.cfg.lcDecode (halvesOf (wcs.getD s.cfg.lcPart []))

/-- `load_tokens()` for one token (spec/44_powerup.md R267). -/
def State.tokenOf (s : State) (wcs : List (List Byte)) (l : TokenLoc) : Token :=
  { value := s.fieldOf wcs l.part l.offset s.cfg.tokenBytes, valid := s.secured l.part }

/-- `load_lc_info()` and `load_tokens()` (spec/44_powerup.md R265, R267). -/
def State.loadLcInfo (wcs : List (List Byte)) (s : State) : State :=
  let d := s.lcDecoded wcs
  { s with lcinfo :=
      { state := d.state, count := d.count, lcValid := d.valid, secretValid := s.secured s.cfg.secretValidPart,
        testUnlock := s.tokenOf wcs s.cfg.testUnlockLoc, testExit := s.tokenOf wcs s.cfg.testExitLoc,
        rma := s.tokenOf wcs s.cfg.rmaLoc } }

/-- One hardware-config field (spec/44_powerup.md R266). -/
def State.hwField (s : State) (wcs : List (List Byte)) (l : FieldLoc) : List Byte :=
  s.fieldOf wcs l.part l.offset l.bytes

/-- `load_hwcfg()` (spec/44_powerup.md R266). -/
def State.loadHwCfg (wcs : List (List Byte)) (s : State) : State :=
  { s with hwcfg :=
      { deviceId := s.hwField wcs s.cfg.deviceIdLoc, manufState := s.hwField wcs s.cfg.manufStateLoc,
        debugState := s.hwField wcs s.cfg.debugStateLoc,
        sramIfetchEnable := s.hwField wcs s.cfg.sramIfetchLoc } }

/-- `finish_powerup()` (spec/44_powerup.md R268). -/
def State.finishPowerup (s : State) : State :=
  State.emit .pwrupAck
    { s with dai := { s.dai with fsm := .idle, part := none }, lci := { s.lci with fsm := .idle } }

/-- The power-up sequence (spec/44_powerup.md R260). -/
def powerup (s : State) : State :=
  let r := powerupParts (s.mapDai fun d => { d with fsm := .init })
  ((r.1.loadLcInfo r.2).loadHwCfg r.2).finishPowerup

/-- PWRUP: processed only while the DAI is in Reset (spec/44_powerup.md R260). -/
def execPwrup (s : State) : Host.Outcome State Fault Refusal :=
  if s.dai.fsm = .reset then complete s (powerup s) else complete s s

end Sys2Proof.Machine
end

