-- ==== Sys2Proof/Machine/Registers.lean ====
section
/-! DEFINITION. Register reads (spec/46_registers.md R300), and the register writes that touch no engine (R301).
Each row of the opcode table has a definition of its own. -/

namespace Sys2Proof.Machine

/-- A register read: its value, and no other effect (spec/46_registers.md R300). -/
def readReg (r : Reg) (s : State) : Host.Outcome State Fault Refusal :=
  if s.cfg.hasReg r then complete s (s.answer (.data (s.readValue r))) else .refused .noSuchRegister

/-- A write that a register ignores (spec/46_registers.md R302). -/
def ignoreWrite (r : Reg) (s : State) : Host.Outcome State Fault Refusal :=
  if s.cfg.hasReg r then complete s s else .refused .noSuchRegister

/-- A write that acts only while `regwen()` is 1 (spec/46_registers.md R310, R316). -/
def gatedWrite (f : State → State) (s : State) : Host.Outcome State Fault Refusal :=
  complete s (if s.regwen then f s else s)

/-- RD INTR_STATE (spec/46_registers.md R303). -/
def execRdIntrState (s : State) : Host.Outcome State Fault Refusal := readReg .intrState s
/-- WR INTR_STATE: write 1 to clear (spec/46_registers.md R303). -/
def execWrIntrState (v : Word) (s : State) : Host.Outcome State Fault Refusal :=
  complete s { s with intrState := s.intrState &&& ~~~(v.extractLsb' 0 2) }

/-- RD INTR_ENABLE (spec/46_registers.md R303). -/
def execRdIntrEnable (s : State) : Host.Outcome State Fault Refusal := readReg .intrEnable s
/-- WR INTR_ENABLE (spec/46_registers.md R303). -/
def execWrIntrEnable (v : Word) (s : State) : Host.Outcome State Fault Refusal :=
  complete s { s with intrEnable := v.extractLsb' 0 2 }

/-- RD INTR_TEST: reads 0 (spec/46_registers.md R304). -/
def execRdIntrTest (s : State) : Host.Outcome State Fault Refusal := readReg .intrTest s
/-- WR INTR_TEST: sets the written bits of INTR_STATE (spec/46_registers.md R304). -/
def execWrIntrTest (v : Word) (s : State) : Host.Outcome State Fault Refusal :=
  complete s { s with intrState := s.intrState ||| v.extractLsb' 0 2 }

/-- RD ALERT_TEST: reads 0 (spec/46_registers.md R306). -/
def execRdAlertTest (s : State) : Host.Outcome State Fault Refusal := readReg .alertTest s
/-- WR ALERT_TEST: sets the written latches (spec/46_registers.md R306). -/
def execWrAlertTest (v : Word) (s : State) : Host.Outcome State Fault Refusal :=
  complete s { s with alertLatch := s.alertLatch ||| v.extractLsb' 0 2 }

/-- RD STATUS (spec/46_registers.md R305). -/
def execRdStatus (s : State) : Host.Outcome State Fault Refusal := readReg .status s
/-- WR STATUS: ignored (spec/46_registers.md R302). -/
def execWrStatus (_v : Word) (s : State) : Host.Outcome State Fault Refusal := ignoreWrite .status s

/-- RD ERR_CODE_k (spec/46_registers.md R307). -/
def execRdErrCode (k : Nat) (s : State) : Host.Outcome State Fault Refusal := readReg (.errCode k) s
/-- WR ERR_CODE_k: ignored (spec/46_registers.md R302). -/
def execWrErrCode (k : Nat) (_v : Word) (s : State) : Host.Outcome State Fault Refusal :=
  ignoreWrite (.errCode k) s

/-- RD DIRECT_ACCESS_REGWEN (spec/46_registers.md R308). -/
def execRdDaiRegwen (s : State) : Host.Outcome State Fault Refusal := readReg .daiRegwen s
/-- WR DIRECT_ACCESS_REGWEN: write 0 clears the latch until reset (spec/46_registers.md R308). -/
def execWrDaiRegwen (v : Word) (s : State) : Host.Outcome State Fault Refusal :=
  complete s (if v.getLsbD 0 then s else s.mapDai fun d => { d with regwenSw := false })

/-- RD DIRECT_ACCESS_CMD: reads 0 (spec/46_registers.md R302). -/
def execRdDaiCmd (s : State) : Host.Outcome State Fault Refusal := readReg .daiCmd s

/-- RD DIRECT_ACCESS_ADDRESS (spec/46_registers.md R302). -/
def execRdDaiAddress (s : State) : Host.Outcome State Fault Refusal := readReg .daiAddress s
/-- WR DIRECT_ACCESS_ADDRESS: gated, masked (spec/46_registers.md R310). -/
def execWrDaiAddress (v : Word) (s : State) : Host.Outcome State Fault Refusal :=
  gatedWrite (State.mapDai fun d => { d with address := v &&& s.cfg.addrMask }) s

/-- RD DIRECT_ACCESS_WDATA_0 (spec/46_registers.md R302). -/
def execRdDaiWdata0 (s : State) : Host.Outcome State Fault Refusal := readReg .daiWdata0 s
/-- WR DIRECT_ACCESS_WDATA_0: gated (spec/46_registers.md R310). -/
def execWrDaiWdata0 (v : Word) (s : State) : Host.Outcome State Fault Refusal :=
  gatedWrite (State.mapDai fun d => { d with wdata0 := v }) s

/-- RD DIRECT_ACCESS_WDATA_1 (spec/46_registers.md R302). -/
def execRdDaiWdata1 (s : State) : Host.Outcome State Fault Refusal := readReg .daiWdata1 s
/-- WR DIRECT_ACCESS_WDATA_1: gated (spec/46_registers.md R310). -/
def execWrDaiWdata1 (v : Word) (s : State) : Host.Outcome State Fault Refusal :=
  gatedWrite (State.mapDai fun d => { d with wdata1 := v }) s

/-- RD DIRECT_ACCESS_RDATA_0 (spec/46_registers.md R311). -/
def execRdDaiRdata0 (s : State) : Host.Outcome State Fault Refusal := readReg .daiRdata0 s
/-- WR DIRECT_ACCESS_RDATA_0: ignored (spec/46_registers.md R302, R311). -/
def execWrDaiRdata0 (_v : Word) (s : State) : Host.Outcome State Fault Refusal := ignoreWrite .daiRdata0 s

/-- RD DIRECT_ACCESS_RDATA_1 (spec/46_registers.md R311). -/
def execRdDaiRdata1 (s : State) : Host.Outcome State Fault Refusal := readReg .daiRdata1 s
/-- WR DIRECT_ACCESS_RDATA_1: ignored (spec/46_registers.md R302, R311). -/
def execWrDaiRdata1 (_v : Word) (s : State) : Host.Outcome State Fault Refusal := ignoreWrite .daiRdata1 s

/-- RD CHECK_TRIGGER_REGWEN: reads 0 (spec/46_registers.md R313). -/
def execRdCheckTriggerRegwen (s : State) : Host.Outcome State Fault Refusal := readReg .checkTriggerRegwen s
/-- WR CHECK_TRIGGER_REGWEN: ignored (spec/46_registers.md R313). -/
def execWrCheckTriggerRegwen (_v : Word) (s : State) : Host.Outcome State Fault Refusal :=
  ignoreWrite .checkTriggerRegwen s

/-- RD CHECK_TRIGGER: reads 0 (spec/46_registers.md R313). -/
def execRdCheckTrigger (s : State) : Host.Outcome State Fault Refusal := readReg .checkTrigger s
/-- WR CHECK_TRIGGER: ignored (spec/46_registers.md R313). -/
def execWrCheckTrigger (_v : Word) (s : State) : Host.Outcome State Fault Refusal := ignoreWrite .checkTrigger s

/-- RD CHECK_REGWEN: reads 0 (spec/46_registers.md R313). -/
def execRdCheckRegwen (s : State) : Host.Outcome State Fault Refusal := readReg .checkRegwen s
/-- WR CHECK_REGWEN: ignored (spec/46_registers.md R313). -/
def execWrCheckRegwen (_v : Word) (s : State) : Host.Outcome State Fault Refusal := ignoreWrite .checkRegwen s

/-- RD CHECK_TIMEOUT: reads 0 (spec/46_registers.md R313). -/
def execRdCheckTimeout (s : State) : Host.Outcome State Fault Refusal := readReg .checkTimeout s
/-- WR CHECK_TIMEOUT: ignored (spec/46_registers.md R313). -/
def execWrCheckTimeout (_v : Word) (s : State) : Host.Outcome State Fault Refusal := ignoreWrite .checkTimeout s

/-- RD <P>_READ_LOCK (spec/46_registers.md R316). -/
def execRdReadLock (p : Nat) (s : State) : Host.Outcome State Fault Refusal := readReg (.readLock p) s
/-- WR <P>_READ_LOCK: gated, write 0 clears until reset (spec/46_registers.md R316). -/
def execWrReadLock (p : Nat) (v : Word) (s : State) : Host.Outcome State Fault Refusal :=
  if s.cfg.hasReg (.readLock p) then
    gatedWrite (fun s => if v.getLsbD 0 then s else { s with readEn := s.readEn.set p false }) s
  else .refused .noSuchRegister

/-- RD <P>_DIGEST_0 (spec/46_registers.md R317). -/
def execRdDigest0 (p : Nat) (s : State) : Host.Outcome State Fault Refusal := readReg (.digest0 p) s
/-- WR <P>_DIGEST_0: ignored (spec/46_registers.md R302, R317). -/
def execWrDigest0 (p : Nat) (_v : Word) (s : State) : Host.Outcome State Fault Refusal :=
  ignoreWrite (.digest0 p) s

/-- RD <P>_DIGEST_1 (spec/46_registers.md R317). -/
def execRdDigest1 (p : Nat) (s : State) : Host.Outcome State Fault Refusal := readReg (.digest1 p) s
/-- WR <P>_DIGEST_1: ignored (spec/46_registers.md R302, R317). -/
def execWrDigest1 (p : Nat) (_v : Word) (s : State) : Host.Outcome State Fault Refusal :=
  ignoreWrite (.digest1 p) s

end Sys2Proof.Machine
end

