-- ==== Sys2Proof/Machine/Dispatch.lean ====
section
/-! DEFINITION. One operation's meaning, an arm for each constructor. -/

namespace Sys2Proof.Machine

def exec (i : Instr) (s : State) : Host.Outcome State Fault Refusal :=
  match i with
  | .daiRd ign => Sys2Proof.Machine.execDaiRd ign s
  | .daiWr ign => Sys2Proof.Machine.execDaiWr ign s
  | .daiDigest ign => Sys2Proof.Machine.execDaiDigest ign s
  | .daiNone ign => Sys2Proof.Machine.execDaiNone ign s
  | .rdIntrState => Sys2Proof.Machine.execRdIntrState s
  | .wrIntrState v => Sys2Proof.Machine.execWrIntrState v s
  | .rdIntrEnable => Sys2Proof.Machine.execRdIntrEnable s
  | .wrIntrEnable v => Sys2Proof.Machine.execWrIntrEnable v s
  | .rdIntrTest => Sys2Proof.Machine.execRdIntrTest s
  | .wrIntrTest v => Sys2Proof.Machine.execWrIntrTest v s
  | .rdAlertTest => Sys2Proof.Machine.execRdAlertTest s
  | .wrAlertTest v => Sys2Proof.Machine.execWrAlertTest v s
  | .rdStatus => Sys2Proof.Machine.execRdStatus s
  | .wrStatus v => Sys2Proof.Machine.execWrStatus v s
  | .rdErrCode k => Sys2Proof.Machine.execRdErrCode k s
  | .wrErrCode k v => Sys2Proof.Machine.execWrErrCode k v s
  | .rdDaiRegwen => Sys2Proof.Machine.execRdDaiRegwen s
  | .wrDaiRegwen v => Sys2Proof.Machine.execWrDaiRegwen v s
  | .rdDaiCmd => Sys2Proof.Machine.execRdDaiCmd s
  | .wrDaiCmd v => Sys2Proof.Machine.execWrDaiCmd v s
  | .rdDaiAddress => Sys2Proof.Machine.execRdDaiAddress s
  | .wrDaiAddress v => Sys2Proof.Machine.execWrDaiAddress v s
  | .rdDaiWdata0 => Sys2Proof.Machine.execRdDaiWdata0 s
  | .wrDaiWdata0 v => Sys2Proof.Machine.execWrDaiWdata0 v s
  | .rdDaiWdata1 => Sys2Proof.Machine.execRdDaiWdata1 s
  | .wrDaiWdata1 v => Sys2Proof.Machine.execWrDaiWdata1 v s
  | .rdDaiRdata0 => Sys2Proof.Machine.execRdDaiRdata0 s
  | .wrDaiRdata0 v => Sys2Proof.Machine.execWrDaiRdata0 v s
  | .rdDaiRdata1 => Sys2Proof.Machine.execRdDaiRdata1 s
  | .wrDaiRdata1 v => Sys2Proof.Machine.execWrDaiRdata1 v s
  | .rdCheckTriggerRegwen => Sys2Proof.Machine.execRdCheckTriggerRegwen s
  | .wrCheckTriggerRegwen v => Sys2Proof.Machine.execWrCheckTriggerRegwen v s
  | .rdCheckTrigger => Sys2Proof.Machine.execRdCheckTrigger s
  | .wrCheckTrigger v => Sys2Proof.Machine.execWrCheckTrigger v s
  | .rdCheckRegwen => Sys2Proof.Machine.execRdCheckRegwen s
  | .wrCheckRegwen v => Sys2Proof.Machine.execWrCheckRegwen v s
  | .rdCheckTimeout => Sys2Proof.Machine.execRdCheckTimeout s
  | .wrCheckTimeout v => Sys2Proof.Machine.execWrCheckTimeout v s
  | .rdReadLock p => Sys2Proof.Machine.execRdReadLock p s
  | .wrReadLock p v => Sys2Proof.Machine.execWrReadLock p v s
  | .rdDigest0 p => Sys2Proof.Machine.execRdDigest0 p s
  | .wrDigest0 p v => Sys2Proof.Machine.execWrDigest0 p v s
  | .rdDigest1 p => Sys2Proof.Machine.execRdDigest1 p s
  | .wrDigest1 p v => Sys2Proof.Machine.execWrDigest1 p v s
  | .wrd woff => Sys2Proof.Machine.execWrd woff s
  | .wwr woff v => Sys2Proof.Machine.execWwr woff v s
  | .pwrup => Sys2Proof.Machine.execPwrup s
  | .lcprog st cnt cb => Sys2Proof.Machine.execLcprog st cnt cb s
  | .lcsig name level => Sys2Proof.Machine.execLcsig name level s
  | .getlc => Sys2Proof.Machine.execGetlc s
  | .gethw => Sys2Proof.Machine.execGethw s
  | .getkey k => Sys2Proof.Machine.execGetkey k s
  | .entropy bits fips => Sys2Proof.Machine.execEntropy bits fips s
  | .alertack idx => Sys2Proof.Machine.execAlertack idx s
  | .fireDaiDone => Sys2Proof.Machine.execFireDaiDone s
  | .fireLciWordDone => Sys2Proof.Machine.execFireLciWordDone s
  | .fireLciFail cb => Sys2Proof.Machine.execFireLciFail cb s
  | .reset => Sys2Proof.Machine.execReset s

end Sys2Proof.Machine
end

