-- ==== Sys2Proof/Machine/Fetch.lean ====
section
/-! DEFINITION. How the next operation is taken from the inbox (log 2). -/

namespace Sys2Proof.Machine

/-- The next operation and the state without its frame; none when nothing is presented. -/
def fetch (s : State) : Except DecodeError (Option (Instr × State)) :=
  match s.inbox with
  | [] => .ok none
  | _ :: _ =>
    match decode s.cfg s.inbox with
    | .error e => .error e
    | .ok (i, rest) => .ok (some (i, { s with inbox := rest }))

/-- The state with the frame of a bare table word as its next operation (log 3). -/
def presentWord (s : State) (nbits w : Nat) : State :=
  { s with inbox := tableFrame s.cfg (BitVec.ofNat 32 (w % 2 ^ nbits)) ++ s.inbox }

end Sys2Proof.Machine
end

