-- ==== Sys2Proof/Machine/Step.lean ====
section
/-! DEFINITION. One step: the next presented operation, executed atomically (spec/00_scope.md R7). -/

namespace Sys2Proof.Machine

/-- One step. A configuration that breaks an invariant of the partition table is no device (spec/20_memory.md R63; log 10),
and one whose register map or life-cycle codec is irregular runs (DESIGN CHOICE, log 33, log 34); with nothing
presented the block waits (spec/70_reset_and_hazards.md R450; log 8). -/
def step (s : State) : Host.Outcome State Fault Refusal :=
  if s.cfg.partTableOk then
    match fetch s with
    | .error e => .refused (.undecodable e)
    | .ok none => .next s
    | .ok (some (i, s')) => exec i s'
  else .refused .invalidConfig

/-- The state whose next step runs the operation of a bare table word (log 3). -/
def State.withFetchWord (s : State) (nbits w : Nat) : State := presentWord s nbits w

end Sys2Proof.Machine
end

