-- ==== Sys2Proof/Machine/Construct.lean ====
section
/-! DEFINITION. The backing file and construction (spec/20_memory.md R68, R70, R71; spec/47_interfaces.md R349). -/

namespace Sys2Proof.Machine

/-- Why there is no device (spec/20_memory.md R63, R68, R71). -/
inductive LoadError
  | badConfig | badMagic | badVersion | badHeaderLength | badDataLength | badEccGeometry | tooShort
  deriving DecidableEq, Repr

/-- A 16-bit little-endian header field. -/
def le16At (f : List Byte) (o : Nat) : Nat := (f.getD (o + 1) 0#8 ++ f.getD o 0#8).toNat

/-- A 32-bit little-endian header field. -/
def le32At (f : List Byte) (o : Nat) : Nat :=
  (wordOf (f.getD o 0#8) (f.getD (o + 1) 0#8) (f.getD (o + 2) 0#8) (f.getD (o + 3) 0#8)).toNat

/-- `"vOTP"` (spec/20_memory.md R70). -/
def magicBytes : List Byte := [0x76#8, 0x4F#8, 0x54#8, 0x50#8]

/-- `hlength` of a version (spec/20_memory.md R71). -/
def headerLength (version : Nat) : Option Nat :=
  if version = 1 then some 16 else if version = 2 then some 40 else none

/-- `ECC_ENABLED` of a file (spec/20_memory.md R68). -/
def fileEcc (f : List Byte) : Bool := decide (le16At f 12 ≠ 0) && decide (le32At f 20 ≠ 0)

/-- The ECC geometry is accepted (spec/20_memory.md R68). -/
def eccGeometryOk (c : Config) (f : List Byte) : Bool :=
  !fileEcc f || (decide (le16At f 12 = 6) && decide (le16At f 14 = 16) && decide (le32At f 20 = c.otpDataSize / 2))

/-- The memory that holds a byte string from address 0. -/
def memoryOf (bs : List Byte) : Memory := Memory.setBytes [] 0 bs

/-- The image of a file whose header has been validated (spec/20_memory.md R70): version 1 takes the defaults. -/
def imageOfFile (c : Config) (version hlength : Nat) (f : List Byte) : Image :=
  let body := f.drop (8 + hlength)
  { eccEnabled := fileEcc f
    data := memoryOf (body.take c.otpDataSize)
    ecc := if fileEcc f then memoryOf ((body.drop c.otpDataSize).take (c.otpDataSize / 2)) else []
    digestIv := if version = 1 then c.defaultDigestIv else le64 f 24
    digestConst := if version = 1 then c.defaultDigestConst else le64 f 40 ++ le64 f 32 }

/-- Load and validate a backing file (spec/20_memory.md R71). -/
def loadImage (c : Config) (f : List Byte) : Except LoadError Image :=
  if f.take 4 ≠ magicBytes then .error .badMagic
  else
    match headerLength (le32At f 8) with
    | none => .error .badVersion
    | some h =>
      if le32At f 4 ≠ h then .error .badHeaderLength
      else if le32At f 16 ≠ c.otpDataSize ∨ le32At f 16 % 8 ≠ 0 then .error .badDataLength
      else if !eccGeometryOk c f then .error .badEccGeometry
      else if f.length < 8 + h + le32At f 16 + le32At f 20 then .error .tooShort
      else .ok (imageOfFile c (le32At f 8) h f)

/-- The length of the ECC region of an image's file: none without ECC (spec/20_memory.md R68). -/
def eccLength (c : Config) (img : Image) : Nat := if img.eccEnabled then c.otpDataSize / 2 else 0

/-- A file that has been validated, taken apart (spec/20_memory.md R70): the bytes before the data region, the regions
of its image, and the bytes behind them. -/
def backingOf (c : Config) (f : List Byte) (img : Image) : Backing :=
  { header := f.take (8 + le32At f 4), data := img.data, ecc := img.ecc,
    trailer := f.drop (8 + le32At f 4 + c.otpDataSize + eccLength c img) }

/-- A version-2 file of an image (spec/20_memory.md R70), padded to a multiple of 4096 bytes. The spec gives no value to
the padding bytes, and no `eccgran` for an image without ECC: zero bytes and 16 are the model's choice (DESIGN CHOICE,
log 29). -/
def fileOf (c : Config) (img : Image) : List Byte :=
  let eccLen := eccLength c img
  let body := magicBytes ++ wordBytes 40#32 ++ wordBytes 2#32 ++
    halfBytes (if img.eccEnabled then 6#16 else 0#16) ++ halfBytes 16#16 ++
    wordBytes (BitVec.ofNat 32 c.otpDataSize) ++ wordBytes (BitVec.ofNat 32 eccLen) ++
    (wordBytes (img.digestIv.extractLsb' 0 32) ++ wordBytes (img.digestIv.extractLsb' 32 32)) ++
    (wordBytes (img.digestConst.extractLsb' 0 32) ++ wordBytes (img.digestConst.extractLsb' 32 32) ++
      wordBytes (img.digestConst.extractLsb' 64 32) ++ wordBytes (img.digestConst.extractLsb' 96 32)) ++
    img.data.bytes 0 c.otpDataSize ++ img.ecc.bytes 0 eccLen
  body ++ List.replicate ((4096 - body.length % 4096) % 4096) 0#8

/-- The backing file as it now stands, if there is one (spec/20_memory.md R70, R72): the file that was loaded, but for
what write-backs changed in its two regions. -/
def State.backingFile (s : State) : Option (List Byte) :=
  s.backing.map fun b =>
    b.header ++ b.data.bytes 0 s.cfg.otpDataSize ++ b.ecc.bytes 0 (eccLength s.cfg s.image) ++ b.trailer

/-- Construction (spec/47_interfaces.md R349): no device for an invalid partition table or file. An irregular register map
or life-cycle codec is accepted (DESIGN CHOICE, log 33, log 34). -/
def construct (c : Config) (file : Option (List Byte)) : Except LoadError State :=
  if !c.partTableOk then .error .badConfig
  else
    match file with
    | none => .ok (State.constructed c c.initialImage none)
    | some f =>
      match loadImage c f with
      | .error e => .error e
      | .ok img => .ok (State.constructed c img (some (backingOf c f img)))

end Sys2Proof.Machine
end

