-- ==== Sys2Proof/Safety.lean ====
section
/-! DEFINITION. What counts as a safe run, the invariants between operations, and the words statements use: frames,
the last reported interrupt level, the corrected copy of a partition. -/

namespace Sys2Proof.Machine

/-- "`alert_latch = 0` and no FSM in `Error`", the premise of a claim about a run without fatal conditions
(spec/60_exceptions.md R401). -/
def State.healthy (s : State) : Prop :=
  s.alertLatch = 0#2 ∧ s.dai.fsm ≠ .error ∧ s.lci.fsm ≠ .error ∧ ∀ q ∈ s.parts, q.fsm ≠ .error

/-- Quiescent: no `DaiDone`, `LciWordDone` or `LciFail` is pending (spec/70_reset_and_hazards.md R470). -/
def State.quiescent (s : State) : Prop := ∀ e ∈ s.pending, e = .entropyRequest

/-- The Wait states of the DAI (spec/10_state.md R37). -/
def DaiFsm.waits : DaiFsm → Bool
  | .readWait => true
  | .writeWait => true
  | .digestWait => true
  | .reset => false
  | .init => false
  | .idle => false
  | .read => false
  | .write => false
  | .digest => false
  | .error => false

/-- What holds of the two engines and the pending events between operations (spec/10_state.md R24, R36, R37;
spec/45_keyderiv.md R280). -/
structure State.EngineInv (s : State) : Prop where
  /-- At most one `DaiDone`, and `DaiDone ∈ pending ⇔ dai.pending`. -/
  daiDone : s.pending.count .daiDone = s.dai.pending.toNat
  /-- A completion is owed exactly in a Wait state, or in Error if it was scheduled before. -/
  daiWaits : s.dai.fsm.waits = true → s.dai.pending = true
  daiOwed : s.dai.pending = true → s.dai.fsm.waits = true ∨ s.dai.fsm = .error
  /-- Init, Read, Write and Digest are never seen between operations. -/
  daiStable : s.dai.fsm ≠ .init ∧ s.dai.fsm ≠ .read ∧ s.dai.fsm ≠ .write ∧ s.dai.fsm ≠ .digest
  /-- A waiting DAI serves a partition that is not the life-cycle partition. -/
  daiPart : s.dai.fsm.waits = true →
    ∃ p, s.dai.part = some p ∧ p < s.cfg.nPart ∧ p ≠ s.cfg.lcPart ∧
      (s.dai.fsm = .digestWait → (s.cfg.desc p).hwDigest = true)
  /-- At most one `LciWordDone`, owed exactly in WriteWait, or in Error if it was scheduled before. -/
  lciOnce : s.pending.count .lciWordDone ≤ 1
  lciWaits : s.lci.fsm = .writeWait → .lciWordDone ∈ s.pending
  lciOwed : .lciWordDone ∈ s.pending → s.lci.fsm = .writeWait ∨ s.lci.fsm = .error
  lciStable : s.lci.fsm ≠ .write
  /-- A request in flight holds its callback, and nothing else does. -/
  lciCallback : s.lci.cb.isSome = true ↔ .lciWordDone ∈ s.pending
  /-- A failure callback is owed only by an LCI in Error. -/
  lciFails : ∀ cb, .lciFail cb ∈ s.pending → s.lci.fsm = .error
  /-- `EntropyRequest ∈ pending` exactly when `pool.requested`, and at most once. -/
  entropy : s.pending.count .entropyRequest = s.pool.requested.toNat
  /-- The two engines leave Reset together. -/
  together : s.dai.fsm = .reset ↔ s.lci.fsm = .reset

/-- Every component has the shape spec/10_state.md gives it (R23, R25 to R27, R31, R32, R34). -/
structure State.ShapeInv (s : State) : Prop where
  parts : s.parts.length = s.cfg.nPart
  err : s.err.length = s.cfg.nEntry
  readEn : s.readEn.length = s.cfg.nPart
  lciBuf : s.lci.buf.length = s.cfg.lcWords
  buffers : ∀ p, p < s.cfg.nPart →
    (s.part p).buffer.length = if (s.cfg.desc p).buffered then (s.cfg.desc p).byteSize else 0
  pool : s.pool.words.length ≤ s.cfg.entropyCap
  tokens : s.lcinfo.testUnlock.value.length = s.cfg.tokenBytes ∧ s.lcinfo.testExit.value.length = s.cfg.tokenBytes ∧
    s.lcinfo.rma.value.length = s.cfg.tokenBytes
  hwcfg : s.hwcfg.deviceId.length = s.cfg.deviceIdLoc.bytes ∧ s.hwcfg.manufState.length = s.cfg.manufStateLoc.bytes ∧
    s.hwcfg.debugState.length = s.cfg.debugStateLoc.bytes ∧
    s.hwcfg.sramIfetchEnable.length = s.cfg.sramIfetchLoc.bytes

/-- A data memory and an ECC memory in canonical form that list no address outside their regions
(spec/10_state.md R22). -/
def storageWf (c : Config) (data ecc : Memory) : Bool :=
  data.wf && ecc.wf && data.below c.otpDataSize && ecc.below (c.otpDataSize / 2)

/-- The storage of the block and its backing copy are in canonical form, and the LCI's cursor stays on a word of
the life-cycle partition while a word is in flight (spec/43_lci.md R244). -/
structure State.StorageInv (s : State) : Prop where
  image : storageWf s.cfg s.image.data s.image.ecc = true
  backing : ∀ b, s.backing = some b → storageWf s.cfg b.data b.ecc = true
  cursor : .lciWordDone ∈ s.pending → s.lci.cursor < s.cfg.lcWords

/-- The level of interrupt line `i` after an output event that finds it at `l`. -/
def irqAfter (i : Fin 2) (l : Bool) : Output → Bool
  | .irq j b => if j = i then b else l
  | .pwrupAck => l
  | .lcAck _ _ => l
  | .entropyReq => l
  | .alert _ => l

/-- The level of interrupt line `i` last reported in a list of output events, low before any
(spec/46_registers.md R319). -/
def lastIrq (i : Fin 2) (os : List Output) : Bool := os.foldl (irqAfter i) false

/-- Not an interrupt or alert event. -/
def Output.plain : Output → Bool
  | .irq _ _ => false
  | .alert _ => false
  | .pwrupAck => true
  | .lcAck _ _ => true
  | .entropyReq => true

/-- The components of the state. -/
inductive Field
  | cfg | image | backing | parts | dai | lci | lcinfo | hwcfg | intrState | intrEnable | alertLatch | err | readEn
  | lcSignals | pool | pending | inbox | answers | outputs | draws
  deriving DecidableEq, Repr

/-- Two states agree on a component. -/
def State.agree (s t : State) : Field → Prop
  | .cfg => t.cfg = s.cfg
  | .image => t.image = s.image
  | .backing => t.backing = s.backing
  | .parts => t.parts = s.parts
  | .dai => t.dai = s.dai
  | .lci => t.lci = s.lci
  | .lcinfo => t.lcinfo = s.lcinfo
  | .hwcfg => t.hwcfg = s.hwcfg
  | .intrState => t.intrState = s.intrState
  | .intrEnable => t.intrEnable = s.intrEnable
  | .alertLatch => t.alertLatch = s.alertLatch
  | .err => t.err = s.err
  | .readEn => t.readEn = s.readEn
  | .lcSignals => t.lcSignals = s.lcSignals
  | .pool => t.pool = s.pool
  | .pending => t.pending = s.pending
  | .inbox => t.inbox = s.inbox
  | .answers => t.answers = s.answers
  | .outputs => t.outputs = s.outputs
  | .draws => t.draws = s.draws

/-- The frame: `t` has the value of `s` in every component that is not listed. -/
def State.frame (changed : List Field) (s t : State) : Prop := ∀ f, f ∉ changed → s.agree t f

/-- Every data byte and every ECC byte of the image outside the `n` data bytes from address `a` is unchanged, and so
are the digest parameters. -/
def sameOutside (a n : Nat) (i j : Image) : Prop :=
  (∀ k, ¬ (a ≤ k ∧ k < a + n) → j.data.get k = i.data.get k) ∧
  (∀ k, ¬ (a / 2 ≤ k ∧ k < (a + n) / 2) → j.ecc.get k = i.ecc.get k) ∧
  j.eccEnabled = i.eccEnabled ∧ j.digestIv = i.digestIv ∧ j.digestConst = i.digestConst

/-- The `n` bytes from address `a` took the bits of `v` by OR, every granule's code was rewritten where ECC is
enabled, and nothing else of the image changed (spec/20_memory.md R69). -/
def orsBits (c : Config) (a n : Nat) (v : DWord) (i j : Image) : Prop :=
  (∀ k, k < n / 2 → j.data.half (a + 2 * k) = i.data.half (a + 2 * k) ||| v.extractLsb' (16 * k) 16) ∧
  (i.eccEnabled = true → ∀ k, k < n / 2 → j.eccRead (a + 2 * k) = c.ecc16 (j.data.half (a + 2 * k))) ∧
  (i.eccEnabled = false → j.ecc = i.ecc) ∧
  sameOutside a n i j

/-- Writing `v` to the `n` bytes from `a` would clear a set bit (spec/20_memory.md R69). -/
def clearsBit (a n : Nat) (v : DWord) (i : Image) : Bool :=
  (List.range (n / 2)).any fun k => decide (i.data.half (a + 2 * k) &&& ~~~(v.extractLsb' (16 * k) 16) ≠ 0#16)

/-- `t` is `s` after a DAI command was rejected with a code: the code in the DAI slot, the DAI Idle with no partition,
both interrupts set, and nothing else (spec/42_dai.md R203). -/
def State.rejectedTo (code : ErrCode) (s t : State) : Prop :=
  t.err = s.err.set s.cfg.nPart code ∧ t.dai = { s.dai with fsm := .idle, part := none } ∧ t.intrState = 3#2 ∧
    s.frame [.err, .dai, .intrState, .outputs] t

/-- The code a programming of `n` bytes at `a` with `v` and its write-back leave (spec/42_dai.md R210, R212, R222). -/
def State.programCode (s : State) (a n : Nat) (v : DWord) : ErrCode :=
  if s.backing.isSome && !Config.persistOk s.draws then .macroError
  else if clearsBit a n v s.image then .writeBlank
  else .noError

/-- The code of one life-cycle word (spec/43_lci.md R244). -/
def State.wordCode (s : State) (a : Nat) (v : Half) : ErrCode :=
  if s.cfg.backendWritable then (if clearsBit a 2 (v.setWidth 64) s.image then .writeBlank else .noError)
  else .macroError

/-- What one life-cycle word leaves in storage (spec/43_lci.md R244). -/
def State.wordStored (s : State) (a : Nat) (v : Half) (t : State) : Prop :=
  if s.cfg.backendWritable then orsBits s.cfg a 2 (v.setWidth 64) s.image t.image else t.image = s.image

/-- The first error of a request is kept (spec/43_lci.md R244). -/
def firstError (old new : ErrCode) : ErrCode := if old = .noError then new else old

/-- The level of interrupt line `k` (spec/10_state.md R28). -/
def State.line (s : State) (k : Nat) : Bool := s.intrState.getLsbD k && s.intrEnable.getLsbD k

/-- Word `i` of an entropy request: a buffered word, oldest first, then a free draw (spec/45_keyderiv.md R280). -/
def State.entropyWord (s : State) (i : Nat) : Word :=
  if i < s.pool.words.length then s.pool.words.getD i 0#32 else Config.fillerWord (s.draws + (i - s.pool.words.length))

/-- Nothing is ready yet in a partition: as after reset but for the seed locks (spec/10_state.md R23). -/
def State.freshParts (s : State) : Prop :=
  s.parts.length = s.cfg.nPart ∧
    ∀ q ∈ s.parts, q.fsm = .reset ∧ q.locked = false ∧ q.failed = false ∧ q.digest = 0#64

/-- Address `a` lies in partition `p`. -/
def inPart (c : Config) (p a : Nat) : Prop :=
  (c.desc p).byteOffset ≤ a ∧ a < (c.desc p).byteOffset + (c.desc p).byteSize

/-- Every partition starts at a 4-aligned offset; the DAI's 32-bit accesses then stay inside their partition
(spec/20_memory.md R77). -/
def aligned4 (c : Config) : Prop := ∀ d ∈ c.partTable, d.byteOffset % 4 = 0

/-- Every data byte of partition `p` and every ECC byte of its granules is unchanged. -/
def State.samePart (p : Nat) (s t : State) : Prop :=
  ∀ a, inPart s.cfg p a → t.image.data.get a = s.image.data.get a ∧ t.image.ecc.get (a / 2) = s.image.ecc.get (a / 2)

/-- No granule of partition `p` is uncorrectable in storage (spec/44_powerup.md R261). -/
def State.readsClean (s : State) (p : Nat) : Prop :=
  ∀ g ∈ (s.cfg.desc p).granules, (s.cfg.eccCheck16 s.image g).2 ≠ .uncorrectable

/-- The bytes of partition `p` as the ECC check corrects them (spec/44_powerup.md R261). -/
def State.correctedBytes (s : State) (p : Nat) : List Byte :=
  (s.cfg.desc p).granules.flatMap fun g => halfBytes (s.cfg.eccCheck16 s.image g).1

/-- Some granule of partition `p` is corrected by the ECC check (spec/44_powerup.md R261). -/
def State.corrects (s : State) (p : Nat) : Prop :=
  ∃ g ∈ (s.cfg.desc p).granules, (s.cfg.eccCheck16 s.image g).2 = .corrected

/-- The digest stored in the last eight corrected bytes of partition `p` (spec/44_powerup.md R262). -/
def State.storedDigest (s : State) (p : Nat) : DWord := le64 (s.correctedBytes p) ((s.cfg.desc p).byteSize - 8)

/-- The integrity check of buffered partition `p` fails: a stored digest that is not the recomputed one
(spec/44_powerup.md R263). -/
def State.failsCheck (s : State) (p : Nat) : Prop :=
  s.readsClean p ∧ (s.cfg.desc p).hwDigest = true ∧ (s.cfg.desc p).buffered = true ∧ s.storedDigest p ≠ 0#64 ∧
    s.cfg.partDigest s.image p (s.correctedBytes p) ≠ s.storedDigest p

/-- The write-back of draw `d` of the `n` data bytes from `a`, and of the codes of their granules, from `img` to a
backing file: on success the file holds the image's bytes there, else free values (log 5); the header, the trailer and
every other byte of the two regions are as before (spec/20_memory.md R72). -/
def Backing.wroteBack (d a n : Nat) (img : Image) (b b' : Backing) : Prop :=
  (∀ k, b'.data.get k =
    if a ≤ k ∧ k < a + n then (if Config.persistOk d then img.data.get k else Config.tornData d k) else b.data.get k) ∧
  (img.eccEnabled = true → ∀ k, b'.ecc.get k =
    if a / 2 ≤ k ∧ k < a / 2 + n / 2 then (if Config.persistOk d then img.ecc.get k else Config.tornEcc d k)
    else b.ecc.get k) ∧
  (img.eccEnabled = false → b'.ecc = b.ecc) ∧ b'.header = b.header ∧ b'.trailer = b.trailer

/-- From `s` to `t` the `n` data bytes from `a` were written back with one draw; without a backing file nothing was
drawn (spec/20_memory.md R72). -/
def State.writesBack (a n : Nat) (s t : State) : Prop :=
  (s.backing = none → t.backing = none ∧ t.draws = s.draws) ∧
  ∀ b, s.backing = some b → b.data.wf = true → b.ecc.wf = true →
    t.draws = s.draws + 1 ∧ ∃ b', t.backing = some b' ∧ b.wroteBack s.draws a n t.image b'

/-- What spec/20_memory.md R62 and R63 ask of one descriptor. -/
structure DescRules (c : Config) (d : PartDesc) : Prop where
  u32 : d.byteOffset < 4294967296 ∧ d.byteSize < 4294967296 ∧ d.digestOffset < 4294967296
  size : d.byteSize % 4 = 0
  inside : d.byteOffset + d.byteSize ≤ c.otpDataSize
  oneDigest : ¬ (d.hwDigest = true ∧ d.swDigest = true)
  secret : d.secret = true → d.byteOffset % 8 = 0 ∧ d.byteSize % 8 = 0
  digest : d.hwDigest = true ∨ d.swDigest = true →
    d.byteOffset % 8 = 0 ∧ d.byteSize % 8 = 0 ∧ 8 ≤ d.byteSize ∧ d.digestOffset = d.byteOffset + d.byteSize - 8

/-- What spec/20_memory.md R62 and R63 and spec/00_scope.md R4 ask of the partition table. -/
structure TableRules (c : Config) : Prop where
  dataSize : c.otpDataSize % 8 = 0
  descs : ∀ d ∈ c.partTable, DescRules c d
  sorted : ∀ p q, p < q → q < c.nPart → (c.desc p).byteOffset + (c.desc p).byteSize ≤ (c.desc q).byteOffset
  lifeCycle : c.lcPart < c.nPart ∧ (c.desc c.lcPart).hwDigest = false ∧ (c.desc c.lcPart).swDigest = false ∧
    (c.desc c.lcPart).secret = false
  seeds : ∀ p ∈ c.seedParts, p < c.nPart ∧ (c.desc p).writeLockable = true ∧ (c.desc p).readLockable = false

/-- What spec/20_memory.md R68, R70 and R71 ask of a backing file. -/
structure FileRules (c : Config) (f : List Byte) : Prop where
  magic : f.take 4 = [0x76#8, 0x4F#8, 0x54#8, 0x50#8]
  version : (le32At f 8 = 1 ∧ le32At f 4 = 16) ∨ (le32At f 8 = 2 ∧ le32At f 4 = 40)
  dataLen : le32At f 16 = c.otpDataSize ∧ le32At f 16 % 8 = 0
  ecc : le16At f 12 ≠ 0 → le32At f 20 ≠ 0 →
    le16At f 12 = 6 ∧ le16At f 14 = 16 ∧ le32At f 20 = c.otpDataSize / 2
  length : 8 + le32At f 4 + le32At f 16 + le32At f 20 ≤ f.length

/-- The half-words of the life-cycle partition in storage. -/
def State.lcStored (s : State) : List Half :=
  (List.range s.cfg.lcWords).map fun w => s.image.data.half (s.cfg.lcAddress w)

/-- `n` operations in a row, each `FIRE LciWordDone`. -/
def fireWords : Nat → State → Host.Outcome State Fault Refusal
  | 0, s => .next s
  | n + 1, s =>
    match exec .fireLciWordDone s with
    | .next t => fireWords n t
    | .fault f => .fault f
    | .refused r => .refused r

/-- A list of operations in a row. -/
def execAll : List Instr → State → Host.Outcome State Fault Refusal
  | [], s => .next s
  | i :: is, s =>
    match exec i s with
    | .next t => execAll is t
    | .fault f => .fault f
    | .refused r => .refused r

end Sys2Proof.Machine
end

