-- ==== Sys2Proof/Certificates/Slice0/Obligations.lean ====
section
/-! DEFINITION. The statements for the provers. Their order and their sources are in OBLIGATIONS.json. -/

section
open Sys2Proof Sys2Proof.Machine

/-- When the presented bytes decode to an operation, a step is that operation on the state without its bytes; with
nothing presented the state stays (spec/00_scope.md R7; the presentation is the model's own, log 2 and log 8). -/
def Obligations.StepRunsDecodedOperation : Prop :=
  (∀ (s : State) (i : Instr) (rest : List Byte), s.cfg.partTableOk = true →
    decode s.cfg s.inbox = .ok (i, rest) → step s = exec i { s with inbox := rest }) ∧
  (∀ s : State, s.cfg.partTableOk = true → s.inbox = [] → step s = .next s)

/-- An admitted operation whose frame is presented is the operation the step runs (log 2). -/
def Obligations.PresentedOperationRuns : Prop :=
  ∀ (s : State) (i : Instr) (rest : List Byte), s.cfg.partTableOk = true → s.cfg.regmapOk = true →
    i.wf s.cfg = true → step { s with inbox := encode s.cfg i ++ rest } = exec i { s with inbox := rest }

/-- Frames written out from the spec's encodings: command values (spec/30_encoding.md R108), register offsets of
EX1 (R101), a window address (spec/46_registers.md R320), operands (R142). The kind bytes are the model's (log 2), EX1 is
the model's configuration of the reset state (log 1), and its window base 0x1000, which the window frame rests on, is the
model's choice (log 28). -/
def Obligations.DecodeReadsSpecWords : Prop :=
  decode ex1 [0#8, 0x01#8, 0#8, 0#8, 0#8] = .ok (.daiRd 0#31, []) ∧
  decode ex1 [0#8, 0x06#8, 0#8, 0#8, 0x80#8] = .ok (.daiWr 0x20000001#30, []) ∧
  decode ex1 [0#8, 0x04#8, 0#8, 0#8, 0#8] = .ok (.daiDigest 0#29, []) ∧
  decode ex1 [0#8, 0x08#8, 0#8, 0#8, 0#8] = .ok (.daiNone 1#29, []) ∧
  decode ex1 [1#8, 0x10#8, 0#8, 0#8, 0#8, 4#8] = .ok (.rdStatus, []) ∧
  decode ex1 [1#8, 0x64#8, 0#8, 0#8, 0#8, 4#8] = .ok (.rdDigest1 3, []) ∧
  decode ex1 [2#8, 0x44#8, 0#8, 0#8, 0#8, 4#8, 0x78#8, 0x56#8, 0x34#8, 0x12#8] = .ok (.wrReadLock 0 0x12345678#32, []) ∧
  decode ex1 [3#8, 0x44#8, 0x10#8, 0#8, 0#8, 4#8] = .ok (.wrd 0x44#32, []) ∧
  decode ex1 [7#8, 20#8, 24#8, 0#8, 0#8, 0#8, 1#8, 2#8, 0#8, 0#8] = .ok (.lcprog 20 24 0x201#32, [])

/-- Decoding an encoded admitted operation gives it back, every operand included, for every usable register map. -/
def Obligations.DecodeInvertsEncode : Prop :=
  ∀ (c : Config) (i : Instr) (rest : List Byte), c.regmapOk = true → i.wf c = true →
    decode c (encode c i ++ rest) = .ok (i, rest)

/-- Whatever the bytes, a decoded operation is in the admitted set and its bytes stand before the rest. -/
def Obligations.DecodedOperationsAreAdmitted : Prop :=
  ∀ (c : Config) (bs : List Byte) (i : Instr) (rest : List Byte), c.regmapOk = true →
    decode c bs = .ok (i, rest) → i.wf c = true ∧ ∃ pre, pre ≠ [] ∧ bs = pre ++ rest

/-- The refusals: a register access of another width, alignment or offset (U1, U2), a window access outside the
window or, for a read, of another width or alignment (U6), an instruction fetch from the window (U40), operands
out of range (U9 to U12), a register the configuration lacks, every step of a configuration whose partition table
breaks spec/20_memory.md R62 or R63 (U13; as a refused step, log 10; one with a partition of 0 bytes inside the one
before it is taken to break R63, log 38), and, the model's choice (log 7), the firing of an
event that is not pending. The frames and their kind bytes 1 to 5 and 8 are the model's (log 2). The refusals of
backing files (U14) are in FileLoadInvertsFileWrite. -/
def Obligations.OperationsOutsideTheSetAreRefused : Prop :=
  (∀ (s : State) (off v : Word) (size : Byte) (rest : List Byte), s.cfg.partTableOk = true →
    (size ≠ 4#8 ∨ off.toNat % 4 ≠ 0 ∨ s.cfg.regAt off.toNat = none) →
    (∃ e, step { s with inbox := 1#8 :: (wordBytes off ++ size :: rest) } = .refused (.undecodable e)) ∧
    ∃ e, step { s with inbox := 2#8 :: (wordBytes off ++ size :: (wordBytes v ++ rest)) } =
      .refused (.undecodable e)) ∧
  (∀ (s : State) (a v : Word) (size : Byte) (rest : List Byte), s.cfg.partTableOk = true →
    (a.toNat < s.cfg.swWindowBase ∨ s.cfg.swWindowBase + s.cfg.swWindowSize ≤ a.toNat) →
    (∃ e, step { s with inbox := 3#8 :: (wordBytes a ++ size :: rest) } = .refused (.undecodable e)) ∧
    ∃ e, step { s with inbox := 4#8 :: (wordBytes a ++ size :: (wordBytes v ++ rest)) } =
      .refused (.undecodable e)) ∧
  (∀ (s : State) (a : Word) (size : Byte) (rest : List Byte), s.cfg.partTableOk = true →
    s.cfg.swWindowBase ≤ a.toNat → a.toNat < s.cfg.swWindowBase + s.cfg.swWindowSize →
    (size ≠ 4#8 ∨ (a.toNat - s.cfg.swWindowBase) % 4 ≠ 0) →
    ∃ e, step { s with inbox := 3#8 :: (wordBytes a ++ size :: rest) } = .refused (.undecodable e)) ∧
  (∀ (s : State) (a : Word) (rest : List Byte), s.cfg.partTableOk = true →
    ∃ e, step { s with inbox := 5#8 :: (wordBytes a ++ rest) } = .refused (.undecodable e)) ∧
  (∀ (s : State) (name level : Byte) (rest : List Byte), s.cfg.partTableOk = true → 5 ≤ name.toNat →
    ∃ e, step { s with inbox := 8#8 :: name :: level :: rest } = .refused (.undecodable e)) ∧
  (∀ (s : State) (st cnt : Nat) (cb : CallbackId),
    (s.cfg.lcProgrammable st = false ∨ (s.cfg.lcStates = defaultLcStates ∧ 20 < st) ∨ s.cfg.lcCntMax < cnt) →
    exec (.lcprog st cnt cb) s = .refused .operandOutOfRange) ∧
  (∀ s : State, ¬ TableRules s.cfg → step s = .refused .invalidConfig) ∧
  (∀ (s : State) (k : Nat), s.cfg.keyTypes.length ≤ k → exec (.getkey k) s = .refused .operandOutOfRange) ∧
  (∀ (s : State) (i : Nat), 2 ≤ i → exec (.alertack i) s = .refused .operandOutOfRange) ∧
  (∀ (s : State) (woff : Word), (woff.toNat % 4 ≠ 0 ∨ s.cfg.swWindowSize ≤ woff.toNat) →
    exec (.wrd woff) s = .refused .windowOffset) ∧
  (∀ (s : State) (r : Reg) (v : Word), s.cfg.hasReg r = false →
    exec r.readOp s = .refused .noSuchRegister ∧ exec (r.writeOp v) s = .refused .noSuchRegister) ∧
  (∀ s : State, .daiDone ∉ s.pending → exec .fireDaiDone s = .refused .eventNotPending) ∧
  (∀ s : State, .lciWordDone ∉ s.pending → exec .fireLciWordDone s = .refused .eventNotPending) ∧
  (∀ (s : State) (cb : CallbackId), .lciFail cb ∉ s.pending →
    exec (.fireLciFail cb) s = .refused .eventNotPending)

/-- Every register read but STATUS and ERR_CODE_k completes for every state, answers the value of the table of rule
R302, and changes nothing: RD of INTR_STATE, INTR_ENABLE, INTR_TEST, ALERT_TEST, the DIRECT_ACCESS registers, the
CHECK registers, READ_LOCK and DIGEST (spec/46_registers.md R300, R302 to R317). -/
def Obligations.RegisterReadsAnswerTheirFields : Prop :=
  ∀ s : State,
    exec .rdIntrState s = .next (s.answer (.data (s.intrState.setWidth 32))) ∧
    exec .rdIntrEnable s = .next (s.answer (.data (s.intrEnable.setWidth 32))) ∧
    exec .rdIntrTest s = .next (s.answer (.data 0#32)) ∧
    exec .rdAlertTest s = .next (s.answer (.data 0#32)) ∧
    exec .rdDaiRegwen s =
      .next (s.answer (.data (if s.dai.regwenSw = true ∧ s.dai.fsm = .idle then 1#32 else 0#32))) ∧
    exec .rdDaiCmd s = .next (s.answer (.data 0#32)) ∧
    exec .rdDaiAddress s = .next (s.answer (.data s.dai.address)) ∧
    exec .rdDaiWdata0 s = .next (s.answer (.data s.dai.wdata0)) ∧
    exec .rdDaiWdata1 s = .next (s.answer (.data s.dai.wdata1)) ∧
    exec .rdDaiRdata0 s = .next (s.answer (.data s.dai.rdata0)) ∧
    exec .rdDaiRdata1 s = .next (s.answer (.data s.dai.rdata1)) ∧
    exec .rdCheckTriggerRegwen s = .next (s.answer (.data 0#32)) ∧
    exec .rdCheckTrigger s = .next (s.answer (.data 0#32)) ∧
    exec .rdCheckRegwen s = .next (s.answer (.data 0#32)) ∧
    exec .rdCheckTimeout s = .next (s.answer (.data 0#32)) ∧
    ∀ p, p < s.cfg.nPart →
      ((s.cfg.desc p).readLockable = true →
        exec (.rdReadLock p) s = .next (s.answer (.data (if s.readEnAt p then 1#32 else 0#32)))) ∧
      ((s.cfg.desc p).hwDigest = true ∨ (s.cfg.desc p).swDigest = true →
        exec (.rdDigest0 p) s = .next (s.answer (.data ((s.part p).digest.extractLsb' 0 32))) ∧
        exec (.rdDigest1 p) s = .next (s.answer (.data ((s.part p).digest.extractLsb' 32 32))))

/-- RD STATUS answers, bit by bit, one error flag for each slot, DAI_IDLE above them, and 0 above that
(spec/46_registers.md R305), and changes nothing. -/
def Obligations.StatusReportsSlotsAndIdle : Prop :=
  ∀ s : State, ∃ v : Word, exec .rdStatus s = .next (s.answer (.data v)) ∧
    ∀ i, i < 32 → v.getLsbD i =
      if i < s.cfg.nPart + 2 then decide (s.errAt i ≠ .noError)
      else decide (i = s.cfg.nPart + 2) && decide (s.dai.fsm = .idle)

/-- RD ERR_CODE_k answers the 3-bit codes of its ten slots, and 0 in every other bit (spec/30_encoding.md R106), and
changes nothing. -/
def Obligations.ErrCodeRegistersPackSlots : Prop :=
  ∀ (s : State) (k : Nat), k < (s.cfg.nPart + 2 + 9) / 10 →
    ∃ v : Word, exec (.rdErrCode k) s = .next (s.answer (.data v)) ∧
      (∀ i, i < s.cfg.nPart + 2 → i / 10 = k → v.extractLsb' (3 * (i % 10)) 3 = (s.errAt i).code) ∧
      (∀ b, b < 32 → (30 ≤ b ∨ s.cfg.nPart + 2 ≤ 10 * k + b / 3) → v.getLsbD b = false)

/-- A write to a register that ignores writes completes and changes nothing at all (spec/46_registers.md R302): WR of
STATUS, ERR_CODE_k, DIRECT_ACCESS_RDATA_0/1 and DIGEST_0/1. -/
def Obligations.IgnoredWritesChangeNothing : Prop :=
  ∀ (s : State) (v : Word),
    exec (.wrStatus v) s = .next s ∧
    (∀ k, k < (s.cfg.nPart + 2 + 9) / 10 → exec (.wrErrCode k v) s = .next s) ∧
    exec (.wrDaiRdata0 v) s = .next s ∧ exec (.wrDaiRdata1 v) s = .next s ∧
    ∀ p, p < s.cfg.nPart → (s.cfg.desc p).hasDigest = true →
      exec (.wrDigest0 p v) s = .next s ∧ exec (.wrDigest1 p v) s = .next s

/-- The four check registers read 0 and ignore every write (spec/46_registers.md R313). -/
def Obligations.CheckRegistersAreStubs : Prop :=
  ∀ (s : State) (v : Word),
    exec .rdCheckTriggerRegwen s = .next (s.answer (.data 0#32)) ∧
    exec .rdCheckTrigger s = .next (s.answer (.data 0#32)) ∧
    exec .rdCheckRegwen s = .next (s.answer (.data 0#32)) ∧
    exec .rdCheckTimeout s = .next (s.answer (.data 0#32)) ∧
    exec (.wrCheckTriggerRegwen v) s = .next s ∧ exec (.wrCheckTrigger v) s = .next s ∧
    exec (.wrCheckRegwen v) s = .next s ∧ exec (.wrCheckTimeout v) s = .next s

/-- WR INTR_STATE clears the bits written 1, WR INTR_ENABLE stores bits 1:0, both read back, and neither changes
anything but its own bits and the reported lines; the error table keeps its values (spec/46_registers.md R303). -/
def Obligations.InterruptRegisterWrites : Prop :=
  ∀ (s : State) (v : Word),
    (∃ t, exec (.wrIntrState v) s = .next t ∧
      (∀ k, k < 2 → t.intrState.getLsbD k = (s.intrState.getLsbD k && !v.getLsbD k)) ∧
      s.frame [.intrState, .outputs] t ∧
      exec .rdIntrState t = .next (t.answer (.data (t.intrState.setWidth 32)))) ∧
    ∃ t, exec (.wrIntrEnable v) s = .next t ∧
      (∀ k, k < 2 → t.intrEnable.getLsbD k = v.getLsbD k) ∧
      s.frame [.intrEnable, .outputs] t ∧
      exec .rdIntrEnable t = .next (t.answer (.data (v &&& 3#32)))

/-- WR INTR_TEST sets the written bits of the interrupt state, WR ALERT_TEST the written latches; both registers read
0, and nothing else changes but the reported lines (spec/46_registers.md R304, R306). -/
def Obligations.TestRegistersSetBits : Prop :=
  ∀ (s : State) (v : Word),
    (∃ t, exec (.wrIntrTest v) s = .next t ∧
      (∀ k, k < 2 → t.intrState.getLsbD k = (s.intrState.getLsbD k || v.getLsbD k)) ∧
      s.frame [.intrState, .outputs] t) ∧
    exec .rdIntrTest s = .next (s.answer (.data 0#32)) ∧
    (∃ t, exec (.wrAlertTest v) s = .next t ∧
      (∀ k, k < 2 → t.alertLatch.getLsbD k = (s.alertLatch.getLsbD k || v.getLsbD k)) ∧
      s.frame [.alertLatch, .outputs] t) ∧
    exec .rdAlertTest s = .next (s.answer (.data 0#32))

/-- ALERTACK i clears latch i and no other, and changes nothing else, not even an output event; a cause that occurs
again sets it again (spec/47_interfaces.md R346). -/
def Obligations.AlertAckClearsOneLatch : Prop :=
  ∀ (s : State) (i : Nat), i < 2 → ∃ t, exec (.alertack i) s = .next t ∧
    (∀ k, k < 2 → t.alertLatch.getLsbD k = (s.alertLatch.getLsbD k && decide (k ≠ i))) ∧
    s.frame [.alertLatch] t ∧
    ∀ slot, (t.record slot .eccUncorrectable).alertLatch.getLsbD 0 = true ∧
      (t.record slot .checkFail).alertLatch.getLsbD 1 = true

/-- Every operation ends by reporting exactly the interrupt lines whose level changed and the alert latches that went
from 0 to 1, after whatever other events it emitted (spec/46_registers.md R319). -/
def Obligations.OperationsReportTheirChanges : Prop :=
  ∀ (i : Instr) (s t : State), exec i s = .next t →
    ∃ mid, (∀ o ∈ mid, o.plain = true) ∧
      t.outputs = s.outputs ++ mid ++
        (if s.line 0 = t.line 0 then [] else [.irq 0 (t.line 0)]) ++
        (if s.line 1 = t.line 1 then [] else [.irq 1 (t.line 1)]) ++
        (if !s.alertLatch.getLsbD 0 && t.alertLatch.getLsbD 0 then [.alert 0] else []) ++
        (if !s.alertLatch.getLsbD 1 && t.alertLatch.getLsbD 1 then [.alert 1] else [])

/-- The level of each interrupt line last reported is the level it has, before and after every step
(spec/10_state.md R28, spec/46_registers.md R319). -/
def Obligations.InterruptLevelsAreReported : Prop :=
  ∀ s t : State, (∀ k : Fin 2, lastIrq k s.outputs = s.line k.val) → step s = .next t →
    ∀ k : Fin 2, lastIrq k t.outputs = t.line k.val

/-- While the write enable reads 0, in Reset, Error and every Wait state too, a command or operand write and a
READ_LOCK write complete with no effect at all and record no error (spec/42_dai.md R201). -/
def Obligations.ClosedGateIgnoresWrites : Prop :=
  ∀ s : State, ¬ (s.dai.regwenSw = true ∧ s.dai.fsm = .idle) →
    (∀ v, exec (.wrDaiCmd v) s = .next s) ∧ (∀ x, exec (.daiRd x) s = .next s) ∧
    (∀ x, exec (.daiWr x) s = .next s) ∧ (∀ x, exec (.daiDigest x) s = .next s) ∧
    (∀ x, exec (.daiNone x) s = .next s) ∧ (∀ v, exec (.wrDaiAddress v) s = .next s) ∧
    (∀ v, exec (.wrDaiWdata0 v) s = .next s) ∧ (∀ v, exec (.wrDaiWdata1 v) s = .next s) ∧
    ∀ p v, s.cfg.hasReg (.readLock p) = true → exec (.wrReadLock p v) s = .next s

/-- While the write enable reads 1, ADDRESS stores the masked value and WDATA_0/1 the value, and READ_LOCK is cleared by
a write with bit 0 clear, after which the partition is unreadable but for its digest address; nothing else changes
(spec/46_registers.md R310, R316). -/
def Obligations.OpenGateStoresOperands : Prop :=
  ∀ (s : State) (v : Word), s.dai.regwenSw = true → s.dai.fsm = .idle →
    exec (.wrDaiAddress v) s = .next { s with dai := { s.dai with address := v &&& s.cfg.addrMask } } ∧
    exec (.wrDaiWdata0 v) s = .next { s with dai := { s.dai with wdata0 := v } } ∧
    exec (.wrDaiWdata1 v) s = .next { s with dai := { s.dai with wdata1 := v } } ∧
    ∀ p, p < s.cfg.nPart → (s.cfg.desc p).readLockable = true → s.readEn.length = s.cfg.nPart →
      ∃ t, exec (.wrReadLock p v) s = .next t ∧ s.frame [.readEn] t ∧
        (∀ q, t.readEnAt q = (s.readEnAt q && !(decide (q = p) && !v.getLsbD 0))) ∧
        (v.getLsbD 0 = false → ∀ a, s.cfg.isDigestAddress p a = false → t.isReadable p a = false)

/-- A write of 0 to REGWEN clears the latch and nothing else, a write of 1 changes nothing; every operation but RESET
keeps a cleared latch cleared; and the register reads 0 while the latch is clear or the DAI is not Idle
(spec/46_registers.md R308). -/
def Obligations.RegwenLatchLocksUntilReset : Prop :=
  (∀ (s : State) (v : Word), exec (.wrDaiRegwen v) s =
    .next { s with dai := { s.dai with regwenSw := s.dai.regwenSw && v.getLsbD 0 } }) ∧
  (∀ (i : Instr) (s t : State), exec i s = .next t → i ≠ .reset → s.dai.regwenSw = false → t.dai.regwenSw = false) ∧
  ∀ s : State, s.dai.regwenSw = false ∨ s.dai.fsm ≠ .idle → exec .rdDaiRegwen s = .next (s.answer (.data 0#32))

/-- WR DIRECT_ACCESS_CMD completes for every value, and acts as the command the lowest set bit of 2:0 selects,
whatever its ignored bits; with none set it has no effect (spec/46_registers.md R309, spec/30_encoding.md R108,
spec/42_dai.md R224). -/
def Obligations.CommandValueSelectsCommand : Prop :=
  ∀ (s : State) (v : Word), ∃ t, exec (.wrDaiCmd v) s = .next t ∧
    (v.getLsbD 0 = true → ∀ x, exec (.daiRd x) s = .next t) ∧
    (v.getLsbD 0 = false → v.getLsbD 1 = true → ∀ x, exec (.daiWr x) s = .next t) ∧
    (v.getLsbD 0 = false → v.getLsbD 1 = false → v.getLsbD 2 = true → ∀ x, exec (.daiDigest x) s = .next t) ∧
    (v.getLsbD 0 = false → v.getLsbD 1 = false → v.getLsbD 2 = false →
      t = s ∧ ∀ x, exec (.daiNone x) s = .next s)

/-- An accepted DAI read of no partition, of the life-cycle partition or of an unreadable address is rejected with
AccessError, and RDATA keeps its value (spec/42_dai.md R203, R205, R206). -/
def Obligations.UnreadableReadIsRejected : Prop :=
  ∀ (s : State) (x : BitVec 31), s.dai.regwenSw = true → s.dai.fsm = .idle →
    (s.cfg.partitionOf s.dai.address.toNat = none ∨ s.cfg.partitionOf s.dai.address.toNat = some s.cfg.lcPart ∨
      ∃ p, s.cfg.partitionOf s.dai.address.toNat = some p ∧ s.isReadable p s.dai.address.toNat = false) →
    ∃ t, exec (.daiRd x) s = .next t ∧ s.rejectedTo .access t

/-- An accepted DAI read of a buffered partition completes at once: the checked storage value in RDATA, 64 bits if the
granule is wide and else 32 with RDATA_1 zero, the done interrupt, and a corrected error in the DAI slot
(spec/42_dai.md R205). -/
def Obligations.BufferedReadCompletesAtOnce : Prop :=
  ∀ (s : State) (x : BitVec 31) (p : Nat) (v : DWord) (sev : Severity),
    s.dai.regwenSw = true → s.dai.fsm = .idle → s.cfg.partitionOf s.dai.address.toNat = some p → p ≠ s.cfg.lcPart →
    s.isReadable p s.dai.address.toNat = true → (s.cfg.desc p).buffered = true →
    (v, sev) = (if s.cfg.isWideGranule p s.dai.address.toNat then
        s.cfg.eccCheck64 s.image (s.dai.address.toNat / 8 * 8)
      else
        let r := s.cfg.eccCheck32 s.image (s.dai.address.toNat / 4 * 4)
        (0#32 ++ r.1, r.2)) →
    sev ≠ .uncorrectable →
    ∃ t, exec (.daiRd x) s = .next t ∧
      t.dai = { s.dai with fsm := .idle, part := none, rdata0 := v.extractLsb' 0 32, rdata1 := v.extractLsb' 32 32 } ∧
      t.err = s.err.set s.cfg.nPart (if sev = .corrected then .eccCorrectable else .noError) ∧
      t.intrState = s.intrState ||| (if sev = .corrected then 3#2 else 1#2) ∧
      s.frame [.dai, .err, .intrState, .outputs] t

/-- An accepted DAI read of an unbuffered partition waits for one DaiDone, which ends it: then RDATA holds the checked
storage value, and the done interrupt is set (spec/42_dai.md R205, R220; nothing is said of RDATA before
completion, spec/70_reset_and_hazards.md R464). -/
def Obligations.UnbufferedReadCompletesOnDone : Prop :=
  ∀ (s : State) (x : BitVec 31) (p : Nat) (v : DWord) (sev : Severity),
    s.dai.regwenSw = true → s.dai.fsm = .idle → .daiDone ∉ s.pending →
    s.cfg.partitionOf s.dai.address.toNat = some p → p ≠ s.cfg.lcPart →
    s.isReadable p s.dai.address.toNat = true → (s.cfg.desc p).buffered = false →
    (v, sev) = (if s.cfg.isWideGranule p s.dai.address.toNat then
        s.cfg.eccCheck64 s.image (s.dai.address.toNat / 8 * 8)
      else
        let r := s.cfg.eccCheck32 s.image (s.dai.address.toNat / 4 * 4)
        (0#32 ++ r.1, r.2)) →
    sev ≠ .uncorrectable →
    ∃ t u, exec (.daiRd x) s = .next t ∧ exec .fireDaiDone t = .next u ∧
      t.dai.fsm = .readWait ∧ t.dai.part = some p ∧ t.dai.pending = true ∧ t.pending = s.pending ++ [.daiDone] ∧
      t.err = s.err.set s.cfg.nPart (if sev = .corrected then .eccCorrectable else .noError) ∧
      t.intrState = s.intrState ||| (if sev = .corrected then 2#2 else 0#2) ∧
      s.frame [.dai, .pending, .err, .intrState, .outputs] t ∧
      u.dai = { s.dai with fsm := .idle, part := none, pending := false, rdata0 := v.extractLsb' 0 32,
                           rdata1 := v.extractLsb' 32 32 } ∧
      u.pending = s.pending ∧ u.err = t.err ∧ u.intrState = t.intrState ||| 1#2 ∧
      s.frame [.dai, .err, .intrState, .outputs] u

/-- An accepted DAI read of an uncorrectable granule is fatal: the code in the DAI slot, the macro alert, the DAI in
Error, RDATA unchanged, nothing scheduled and no done interrupt (spec/42_dai.md R204 to R206). -/
def Obligations.UncorrectableReadIsFatal : Prop :=
  ∀ (s : State) (x : BitVec 31) (p : Nat), s.dai.regwenSw = true → s.dai.fsm = .idle →
    s.cfg.partitionOf s.dai.address.toNat = some p → p ≠ s.cfg.lcPart → s.isReadable p s.dai.address.toNat = true →
    (if s.cfg.isWideGranule p s.dai.address.toNat then
        (s.cfg.eccCheck64 s.image (s.dai.address.toNat / 8 * 8)).2
      else (s.cfg.eccCheck32 s.image (s.dai.address.toNat / 4 * 4)).2) = .uncorrectable →
    ∃ t, exec (.daiRd x) s = .next t ∧ t.dai = { s.dai with fsm := .error, part := none } ∧
      t.err = s.err.set s.cfg.nPart .eccUncorrectable ∧ t.intrState = s.intrState ||| 2#2 ∧
      t.alertLatch = s.alertLatch ||| 1#2 ∧ s.frame [.dai, .err, .intrState, .alertLatch, .outputs] t

/-- The checks of an accepted DAI write, in the order of rule R210: the first that applies gives the code the command is
rejected with (spec/42_dai.md R210, R211). -/
def Obligations.DaiWriteChecksInOrder : Prop :=
  ∀ (s : State) (x : BitVec 30), s.dai.regwenSw = true → s.dai.fsm = .idle →
    (s.cfg.partitionOf s.dai.address.toNat = none → ∃ t, exec (.daiWr x) s = .next t ∧ s.rejectedTo .access t) ∧
    ∀ p, s.cfg.partitionOf s.dai.address.toNat = some p →
      (p = s.cfg.lcPart ∨
        ((s.cfg.desc p).hwDigest = true ∧ s.cfg.isDigestAddress p s.dai.address.toNat = true) ∨
        s.isWritable p = false → ∃ t, exec (.daiWr x) s = .next t ∧ s.rejectedTo .access t) ∧
      (p ≠ s.cfg.lcPart →
        ¬ ((s.cfg.desc p).hwDigest = true ∧ s.cfg.isDigestAddress p s.dai.address.toNat = true) →
        s.isWritable p = true → s.cfg.backendWritable = false →
        ∃ t, exec (.daiWr x) s = .next t ∧ s.rejectedTo .macroError t)

/-- An accepted DAI write ORs the write data into the addressed word, or into the addressed double word of a wide
granule, rewrites the codes, changes no other byte, records a blank-write or a persistence error, and waits for its
completion (spec/42_dai.md R210, R212; spec/20_memory.md R69). -/
def Obligations.DaiWriteOrsBits : Prop :=
  ∀ (s : State) (x : BitVec 30) (p a n : Nat), s.dai.regwenSw = true → s.dai.fsm = .idle →
    s.cfg.partitionOf s.dai.address.toNat = some p → p ≠ s.cfg.lcPart →
    ¬ ((s.cfg.desc p).hwDigest = true ∧ s.cfg.isDigestAddress p s.dai.address.toNat = true) →
    s.isWritable p = true → s.cfg.backendWritable = true →
    s.image.data.wf = true → s.image.ecc.wf = true →
    (a, n) = (if s.cfg.isWideGranule p s.dai.address.toNat then (s.dai.address.toNat / 8 * 8, 8)
      else (s.dai.address.toNat / 4 * 4, 4)) →
    ∃ t, exec (.daiWr x) s = .next t ∧
      orsBits s.cfg a n (s.dai.wdata1 ++ s.dai.wdata0) s.image t.image ∧
      t.dai = { s.dai with part := some p, fsm := .writeWait, pending := true } ∧
      t.pending = s.pending ++ [.daiDone] ∧
      t.err = s.err.set s.cfg.nPart (s.programCode a n (s.dai.wdata1 ++ s.dai.wdata0)) ∧
      t.intrState = s.intrState |||
        (if s.programCode a n (s.dai.wdata1 ++ s.dai.wdata0) = .noError then 0#2 else 2#2) ∧
      s.frame [.image, .backing, .dai, .pending, .err, .intrState, .outputs, .draws] t

/-- Writing a value that clears no set bit to an unlocked partition that is not secret, waiting for completion, and
reading the address back gives the value with no error: 32 bits, or 64 at a software digest (spec/42_dai.md R226), under
the default ECC masks (PRESUMED, log 11). -/
def Obligations.WrittenValueReadsBack : Prop :=
  ∀ (s : State) (x : BitVec 30) (y : BitVec 31) (p a n : Nat), s.cfg.eccEncMasks = defaultEccMasks →
    s.image.data.wf = true → s.image.ecc.wf = true → s.err.length = s.cfg.nEntry →
    s.dai.regwenSw = true → s.dai.fsm = .idle → .daiDone ∉ s.pending →
    s.cfg.partitionOf s.dai.address.toNat = some p → p ≠ s.cfg.lcPart → (s.cfg.desc p).secret = false →
    ¬ ((s.cfg.desc p).hwDigest = true ∧ s.cfg.isDigestAddress p s.dai.address.toNat = true) →
    s.isWritable p = true → s.isReadable p s.dai.address.toNat = true → s.cfg.backendWritable = true →
    (a, n) = (if s.cfg.isDigestAddress p s.dai.address.toNat then (s.dai.address.toNat / 8 * 8, 8)
      else (s.dai.address.toNat / 4 * 4, 4)) →
    clearsBit a n (s.dai.wdata1 ++ s.dai.wdata0) s.image = false →
    ∃ t, execAll ([.daiWr x, .fireDaiDone, .daiRd y] ++
        (if (s.cfg.desc p).buffered then [] else [.fireDaiDone])) s = .next t ∧
      t.dai.fsm = .idle ∧ t.dai.rdata0 = s.dai.wdata0 ∧
      t.dai.rdata1 = (if s.cfg.isDigestAddress p s.dai.address.toNat then s.dai.wdata1 else 0#32) ∧
      t.errAt s.cfg.nPart = .noError ∧ .daiDone ∉ t.pending

/-- The checks of an accepted DIGEST command give the code it is rejected with; else it computes the digest of the
stored bytes into the partition's scratch register, changes no storage, and waits (spec/42_dai.md R215, R216). -/
def Obligations.DigestCommandComputes : Prop :=
  ∀ (s : State) (x : BitVec 29), s.dai.regwenSw = true → s.dai.fsm = .idle →
    (s.cfg.partitionOf s.dai.address.toNat = none →
      ∃ t, exec (.daiDigest x) s = .next t ∧ s.rejectedTo .access t) ∧
    ∀ (p : Nat) (d : DWord), s.cfg.partitionOf s.dai.address.toNat = some p →
      d = s.cfg.digest (s.image.data.bytes (s.cfg.desc p).byteOffset (s.cfg.desc p).byteSize)
        ((s.cfg.desc p).byteSize - 8) s.image.digestIv s.image.digestConst →
      (p = s.cfg.lcPart ∨ (s.cfg.desc p).hwDigest = false ∨ s.isWritable p = false →
        ∃ t, exec (.daiDigest x) s = .next t ∧ s.rejectedTo .access t) ∧
      (p ≠ s.cfg.lcPart → (s.cfg.desc p).hwDigest = true → s.isWritable p = true →
        (s.cfg.backendWritable = false → ∃ t, exec (.daiDigest x) s = .next t ∧ s.rejectedTo .macroError t) ∧
        (s.cfg.backendWritable = true →
          ∃ t, exec (.daiDigest x) s = .next t ∧
            t.parts = s.parts.modify p (fun q => { q with nextDigest := d }) ∧
            t.dai = { s.dai with part := some p, fsm := .digestWait, pending := true } ∧
            t.pending = s.pending ++ [.daiDone] ∧ t.err = s.err.set s.cfg.nPart .noError ∧
            s.frame [.parts, .dai, .pending, .err] t))

/-- DaiDone ends a waiting read or write with the done interrupt and no other effect (spec/42_dai.md R220, R221); in
Error it only leaves the pending events. -/
def Obligations.DaiDoneEndsTheCommand : Prop :=
  ∀ s : State, .daiDone ∈ s.pending →
    (s.dai.fsm = .readWait ∨ s.dai.fsm = .writeWait →
      ∃ t, exec .fireDaiDone s = .next t ∧
        t.dai = { s.dai with fsm := .idle, part := none, pending := false } ∧
        t.pending = s.pending.erase .daiDone ∧ t.intrState = s.intrState ||| 1#2 ∧
        s.frame [.dai, .pending, .intrState, .outputs] t) ∧
    (s.dai.fsm = .error →
      exec .fireDaiDone s =
        .next { s with dai := { s.dai with pending := false }, pending := s.pending.erase .daiDone })

/-- DaiDone of a DIGEST command ORs the computed digest into the partition's digest slot, rewrites its codes, records a
blank-write or persistence error, and ends the command; the runtime digest and lock do not change
(spec/42_dai.md R220, R222). -/
def Obligations.DigestCommitOrsTheSlot : Prop :=
  ∀ (s : State) (p : Nat), .daiDone ∈ s.pending → s.dai.fsm = .digestWait → s.dai.part = some p →
    s.image.data.wf = true → s.image.ecc.wf = true → (s.cfg.desc p).digestOffset % 2 = 0 →
    ∃ t, exec .fireDaiDone s = .next t ∧
      orsBits s.cfg (s.cfg.desc p).digestOffset 8 (s.part p).nextDigest s.image t.image ∧
      t.dai = { s.dai with fsm := .idle, part := none, pending := false } ∧
      t.pending = s.pending.erase .daiDone ∧
      t.err = (if s.programCode (s.cfg.desc p).digestOffset 8 (s.part p).nextDigest = .noError then s.err
        else s.err.set s.cfg.nPart (s.programCode (s.cfg.desc p).digestOffset 8 (s.part p).nextDigest)) ∧
      t.intrState = s.intrState |||
        (if s.programCode (s.cfg.desc p).digestOffset 8 (s.part p).nextDigest = .noError then 1#2 else 3#2) ∧
      s.frame [.image, .backing, .dai, .pending, .err, .intrState, .outputs, .draws] t

/-- After a DAI write or digest commit with a backing file, one draw decides the write-back: if it succeeds the
written bytes of the file are those of the image and no other byte changes, the header and the bytes behind the regions
among them; without a backing file nothing is drawn (spec/20_memory.md R72, spec/42_dai.md R212). After a failed draw the
written bytes are free and the other bytes of the file are unchanged: that is the model's choice (log 5). The write-back
of an LCI request is in LciLastWordAcknowledges. -/
def Obligations.WriteBackCopiesWrittenBytes : Prop :=
  ∀ (s t : State) (i : Instr) (p a n : Nat),
    (((∃ x, i = .daiWr x) ∧ s.dai.regwenSw = true ∧ s.dai.fsm = .idle ∧
        s.cfg.partitionOf s.dai.address.toNat = some p ∧ p ≠ s.cfg.lcPart ∧
        ¬ ((s.cfg.desc p).hwDigest = true ∧ s.cfg.isDigestAddress p s.dai.address.toNat = true) ∧
        s.isWritable p = true ∧ s.cfg.backendWritable = true ∧
        (a, n) = (if s.cfg.isWideGranule p s.dai.address.toNat then (s.dai.address.toNat / 8 * 8, 8)
          else (s.dai.address.toNat / 4 * 4, 4))) ∨
      (i = .fireDaiDone ∧ .daiDone ∈ s.pending ∧ s.dai.fsm = .digestWait ∧ s.dai.part = some p ∧
        a = (s.cfg.desc p).digestOffset ∧ n = 8)) →
    exec i s = .next t → s.writesBack a n t

/-- LCPROG answers Busy and changes nothing in Reset, Write and WriteWait; in Error it answers Ok and owes a failure
callback; in Idle it answers Ok, stages the encoded words, and programs the first of them
(spec/43_lci.md R243, R244). For a codec that breaks R240 or R241, a life-cycle partition at an odd offset or one of no
words, what is staged and programmed is the model's choice (logs 34, 35, 36). -/
def Obligations.LcprogAnswers : Prop :=
  ∀ (s : State) (st cnt : Nat) (cb : CallbackId), s.cfg.lcProgrammable st = true → cnt ≤ s.cfg.lcCntMax →
    (s.lci.fsm = .reset ∨ s.lci.fsm = .write ∨ s.lci.fsm = .writeWait →
      exec (.lcprog st cnt cb) s = .next (s.answer (.lcprog false))) ∧
    (s.lci.fsm = .error →
      exec (.lcprog st cnt cb) s =
        .next { s with pending := s.pending ++ [.lciFail cb], answers := s.answers ++ [.lcprog true] }) ∧
    (s.lci.fsm = .idle → s.image.data.wf = true → s.image.ecc.wf = true →
      ∃ t, exec (.lcprog st cnt cb) s = .next t ∧
        s.wordStored (s.cfg.desc s.cfg.lcPart).byteOffset ((s.cfg.lcEncode st cnt).getD 0 0#16) t ∧
        t.lci = { fsm := .writeWait, buf := s.cfg.lcEncode st cnt, cursor := 0,
                  err := s.wordCode (s.cfg.desc s.cfg.lcPart).byteOffset ((s.cfg.lcEncode st cnt).getD 0 0#16),
                  cb := some cb } ∧
        t.err = s.err.set s.cfg.lcPart .noError ∧ t.pending = s.pending ++ [.lciWordDone] ∧
        t.answers = s.answers ++ [.lcprog true] ∧ s.frame [.image, .lci, .err, .pending, .answers] t)

/-- LciWordDone before the last word moves the cursor on, programs the next word, keeps the first error and owes the
next completion (spec/43_lci.md R244, R245). For a life-cycle partition at an odd offset, the ECC byte rewritten is the
model's choice (log 35). -/
def Obligations.LciWordDoneProgramsNext : Prop :=
  ∀ (s : State) (a : Nat) (v : Half), .lciWordDone ∈ s.pending → s.lci.fsm ≠ .error →
    s.lci.cursor + 1 < s.cfg.lcWords → s.image.data.wf = true → s.image.ecc.wf = true →
    a = (s.cfg.desc s.cfg.lcPart).byteOffset + 2 * (s.lci.cursor + 1) → v = s.lci.buf.getD (s.lci.cursor + 1) 0#16 →
    ∃ t, exec .fireLciWordDone s = .next t ∧ s.wordStored a v t ∧
      t.lci = { s.lci with fsm := .writeWait, cursor := s.lci.cursor + 1,
                           err := firstError s.lci.err (s.wordCode a v) } ∧
      t.pending = s.pending.erase .lciWordDone ++ [.lciWordDone] ∧ s.frame [.image, .lci, .pending] t

/-- LciWordDone after the last word persists, records an accumulated error in the life-cycle slot, returns to Idle and
acknowledges with success exactly when there was none; in Error it persists and acknowledges failure. One draw decides the
write-back of the request's bytes: every word of the life-cycle partition, in Error the words up to the cursor, none on a
backend that is not writable. Storage, the caches and every other component stay (spec/43_lci.md R245, R246;
spec/20_memory.md R72). Which bytes a request writes back, and that a failed draw spares the others, is the model's choice
(log 5); that a failed draw sets `lci.err` in Error too is its reading (DEDUCED, log 17). -/
def Obligations.LciLastWordAcknowledges : Prop :=
  ∀ (s : State) (cb : CallbackId) (e : ErrCode), .lciWordDone ∈ s.pending → s.lci.cb = some cb →
    e = firstError s.lci.err (if s.backing.isSome && !Config.persistOk s.draws then .macroError else .noError) →
    (s.lci.fsm ≠ .error → s.cfg.lcWords ≤ s.lci.cursor + 1 →
      ∃ t ev, exec .fireLciWordDone s = .next t ∧
        t.lci = { s.lci with fsm := .idle, cursor := s.lci.cursor + 1, err := e, cb := none } ∧
        t.err = (if e = .noError then s.err else s.err.set s.cfg.lcPart e) ∧
        t.intrState = s.intrState ||| (if e = .noError then 0#2 else 2#2) ∧
        t.alertLatch = s.alertLatch ||| alertOf e ∧
        t.pending = s.pending.erase .lciWordDone ∧
        t.outputs = s.outputs ++ .lcAck cb (decide (e = .noError)) :: ev ∧ (∀ o ∈ ev, o.plain = false) ∧
        s.writesBack (s.cfg.desc s.cfg.lcPart).byteOffset (if s.cfg.backendWritable then 2 * s.cfg.lcWords else 0) t ∧
        s.frame [.lci, .err, .intrState, .alertLatch, .pending, .outputs, .backing, .draws] t) ∧
    (s.lci.fsm = .error →
      ∃ t, exec .fireLciWordDone s = .next t ∧ t.lci = { s.lci with err := e, cb := none } ∧
        t.pending = s.pending.erase .lciWordDone ∧ t.outputs = s.outputs ++ [.lcAck cb false] ∧
        s.writesBack (s.cfg.desc s.cfg.lcPart).byteOffset
          (if s.cfg.backendWritable then 2 * min (s.lci.cursor + 1) s.cfg.lcWords else 0) t ∧
        s.frame [.lci, .pending, .outputs, .backing, .draws] t)

/-- LciFail(cb) leaves the pending events and acknowledges failure; no other state changes (spec/43_lci.md R247). -/
def Obligations.LciFailAcknowledges : Prop :=
  ∀ (s : State) (cb : CallbackId), .lciFail cb ∈ s.pending →
    exec (.fireLciFail cb) s =
      .next { s with pending := s.pending.erase (.lciFail cb), outputs := s.outputs ++ [.lcAck cb false] }

/-- The round trip of life-cycle programming (spec/43_lci.md R249): a request on a life-cycle partition that has words
(without any, log 36) and whose two regions are zero, after all its completions, decodes from storage to the programmed
state and count; if the whole partition was zero and the write-back succeeds, the acknowledgement is success. That a
life-cycle partition at an odd offset is programmed too is the model's choice (log 35). -/
def Obligations.LifeCycleProgramRoundTrip : Prop :=
  ∀ (s : State) (st cnt : Nat) (cb : CallbackId), s.cfg.partTableOk = true → s.cfg.lcCodecOk = true →
    0 < s.cfg.lcWords → s.cfg.backendWritable = true → s.image.data.wf = true → s.image.ecc.wf = true →
    s.lci.fsm = .idle → .lciWordDone ∉ s.pending → s.cfg.lcProgrammable st = true → cnt ≤ s.cfg.lcCntMax →
    (∀ h ∈ s.cfg.lcStateRegion s.lcStored, h = 0#16) → (∀ h ∈ s.cfg.lcCntRegion s.lcStored, h = 0#16) →
    ∃ t u, exec (.lcprog st cnt cb) s = .next t ∧ fireWords s.cfg.lcWords t = .next u ∧
      u.cfg.lcDecode u.lcStored = { state := BitVec.ofNat 5 st, count := cnt, valid := true } ∧
      u.lci.fsm = .idle ∧ .lciWordDone ∉ u.pending ∧
      ((∀ h ∈ s.lcStored, h = 0#16) → (s.backing = none ∨ Config.persistOk s.draws = true) →
        .lcAck cb true ∈ u.outputs.drop s.outputs.length)

/-- Law L2 of the life-cycle codec follows from law L1 and the layout (spec/43_lci.md R240 to R242). -/
def Obligations.LifeCycleCodecRoundTrip : Prop :=
  ∀ (c : Config) (st cnt : Nat), c.lcCodecOk = true → c.lcProgrammable st = true → cnt ≤ c.lcCntMax →
    c.lcDecode (c.lcEncode st cnt) = { state := BitVec.ofNat 5 st, count := cnt, valid := true }

/-- With the default masks: an encoded word verifies as itself without error, every single flipped bit is corrected, and
every double flip is uncorrectable (spec/40_ecc.md R155). -/
def Obligations.EccCorrectsOneDetectsTwo : Prop :=
  ∀ c : Config, c.eccEncMasks = defaultEccMasks →
    (∀ d : Half, c.verify22 (c.ecc16 d ++ d) = (d, .clean)) ∧
    (∀ (d : Half) (i : Nat), i < 22 → c.verify22 ((c.ecc16 d ++ d) ^^^ ((1#22) <<< i)) = (d, .corrected)) ∧
    (∀ (d : Half) (i j : Nat), i < j → j < 22 →
      (c.verify22 ((c.ecc16 d ++ d) ^^^ ((1#22) <<< i) ^^^ ((1#22) <<< j))).2 = .uncorrectable) ∧
    (∀ w : Word, c.verify32 w (c.ecc32 w) = (w, .clean)) ∧
    (∀ w : DWord, c.verify64 w (c.ecc64 w) = (w, .clean))

/-- A power-up pulse outside Reset is ignored; in Reset it ends with both engines Idle and the acknowledgement, writes
no storage byte and never sets the done interrupt (spec/44_powerup.md R260, R268 to R270). -/
def Obligations.PowerupPulse : Prop :=
  ∀ s : State,
    (s.dai.fsm ≠ .reset → exec .pwrup s = .next s) ∧
    (s.dai.fsm = .reset →
      ∃ t ev, exec .pwrup s = .next t ∧ t.dai = { s.dai with fsm := .idle, part := none } ∧
        t.lci = { s.lci with fsm := .idle } ∧ t.outputs = s.outputs ++ .pwrupAck :: ev ∧
        (∀ o ∈ ev, o.plain = false) ∧ t.intrState.getLsbD 0 = s.intrState.getLsbD 0 ∧
        s.frame [.parts, .dai, .lci, .lcinfo, .hwcfg, .intrState, .alertLatch, .err, .outputs] t)

/-- What power-up decides for each partition: its digest, its buffer, and whether it is locked, failed and in Error, by
the kind of the partition and its stored digest; and what it records: the code in the partition's slot, with the error
interrupt exactly when something is recorded, the macro alert for an uncorrectable granule and the check alert for a wrong
digest (spec/44_powerup.md R261 to R264, R269; spec/60_exceptions.md R410, R418). The locks of the seeds, the scratch
digests and the other slots stay. Which ECC bytes a partition at an odd offset uses is the model's choice (log 35). -/
def Obligations.PowerupDecidesLocks : Prop :=
  ∀ s : State, s.cfg.partTableOk = true → s.dai.fsm = .reset → s.freshParts → s.err.length = s.cfg.nEntry →
    ∃ t, exec .pwrup s = .next t ∧
      (∀ p, p < s.cfg.nPart → ∀ d : DWord, d = le64 (s.correctedBytes p) ((s.cfg.desc p).byteSize - 8) →
        ((t.part p).readLock = (s.part p).readLock ∧ (t.part p).writeLock = (s.part p).writeLock ∧
          (t.part p).nextDigest = (s.part p).nextDigest) ∧
        (¬ s.readsClean p → (t.part p).failed = true ∧ (t.part p).locked = false ∧ (t.part p).fsm = .error ∧
          (t.part p).digest = 0#64 ∧ (t.part p).buffer = (s.part p).buffer ∧ t.errAt p = .eccUncorrectable) ∧
        (s.readsClean p →
          (t.part p).digest = (if (s.cfg.desc p).hasDigest then d else 0#64) ∧
          (t.part p).buffer = (if (s.cfg.desc p).buffered then s.correctedBytes p else (s.part p).buffer) ∧
          (¬ s.failsCheck p →
            (s.corrects p → t.errAt p = .eccCorrectable) ∧ (¬ s.corrects p → t.errAt p = s.errAt p)) ∧
          ((s.cfg.desc p).hasDigest = false →
            (t.part p).locked = false ∧ (t.part p).failed = false ∧ (t.part p).fsm = .idle) ∧
          ((s.cfg.desc p).swDigest = true ∨ ((s.cfg.desc p).hwDigest = true ∧ (s.cfg.desc p).buffered = false) →
            (t.part p).locked = decide (d ≠ 0#64) ∧ (t.part p).failed = false ∧ (t.part p).fsm = .idle) ∧
          ((s.cfg.desc p).hwDigest = true → (s.cfg.desc p).buffered = true →
            (d = 0#64 → (t.part p).locked = false ∧ (t.part p).failed = false ∧ (t.part p).fsm = .idle) ∧
            (d ≠ 0#64 → s.cfg.partDigest s.image p (s.correctedBytes p) = d →
              (t.part p).locked = true ∧ (t.part p).failed = false ∧ (t.part p).fsm = .idle) ∧
            (d ≠ 0#64 → s.cfg.partDigest s.image p (s.correctedBytes p) ≠ d →
              (t.part p).locked = true ∧ (t.part p).failed = true ∧ (t.part p).fsm = .error ∧
              t.errAt p = .checkFail)))) ∧
      (∀ q, s.cfg.nPart ≤ q → t.errAt q = s.errAt q) ∧
      (t.intrState.getLsbD 1 = true ↔ s.intrState.getLsbD 1 = true ∨
        ∃ p, p < s.cfg.nPart ∧ (¬ s.readsClean p ∨ s.corrects p ∨ s.failsCheck p)) ∧
      (t.alertLatch.getLsbD 0 = true ↔ s.alertLatch.getLsbD 0 = true ∨ ∃ p, p < s.cfg.nPart ∧ ¬ s.readsClean p) ∧
      (t.alertLatch.getLsbD 1 = true ↔ s.alertLatch.getLsbD 1 = true ∨ ∃ p, p < s.cfg.nPart ∧ s.failsCheck p)

/-- What power-up caches: the decoded life-cycle state, the secret-valid flag, the hardware-config fields and the
tokens, zero and invalid where the owning partition failed (spec/44_powerup.md R265 to R267). Where a codec breaks R240 or
R241, a partition lies at an odd offset, or a location runs past its partition or names none, the value is the model's
choice (logs 34, 35, 31, 27). -/
def Obligations.PowerupLoadsCaches : Prop :=
  ∀ s : State, s.cfg.partTableOk = true → s.dai.fsm = .reset → s.freshParts →
    ∃ t, exec .pwrup s = .next t ∧
      (¬ s.readsClean s.cfg.lcPart →
        t.lcinfo.state = s.cfg.lcInvalid ∧ t.lcinfo.count = 0 ∧ t.lcinfo.lcValid = false) ∧
      (s.readsClean s.cfg.lcPart →
        s.cfg.lcDecode (halvesOf (s.correctedBytes s.cfg.lcPart)) =
          { state := t.lcinfo.state, count := t.lcinfo.count, valid := t.lcinfo.lcValid }) ∧
      (t.lcinfo.secretValid =
        ((t.part s.cfg.secretValidPart).locked && !(t.part s.cfg.secretValidPart).failed)) ∧
      (∀ l ∈ [(s.cfg.deviceIdLoc, t.hwcfg.deviceId), (s.cfg.manufStateLoc, t.hwcfg.manufState),
          (s.cfg.debugStateLoc, t.hwcfg.debugState), (s.cfg.sramIfetchLoc, t.hwcfg.sramIfetchEnable)],
        l.2 = if (t.part l.1.part).failed then List.replicate l.1.bytes 0#8
          else bytesAt (s.correctedBytes l.1.part) l.1.offset l.1.bytes) ∧
      (∀ l ∈ [(s.cfg.testUnlockLoc, t.lcinfo.testUnlock), (s.cfg.testExitLoc, t.lcinfo.testExit),
          (s.cfg.rmaLoc, t.lcinfo.rma)],
        l.2.valid = ((t.part l.1.part).locked && !(t.part l.1.part).failed) ∧
        l.2.value = if (t.part l.1.part).failed then List.replicate s.cfg.tokenBytes 0#8
          else bytesAt (s.correctedBytes l.1.part) l.1.offset s.cfg.tokenBytes)

/-- GETLC and GETHW answer the cached values and change nothing; the state goes out as six copies of its index
(spec/47_interfaces.md R343, R344; spec/30_encoding.md R122). -/
def Obligations.QueriesAnswerFromCaches : Prop :=
  ∀ s : State,
    (∃ w : BitVec 30, (∀ k, k < 6 → w.extractLsb' (5 * k) 5 = s.lcinfo.state) ∧
      exec .getlc s = .next (s.answer (.lcInfo w s.lcinfo.count s.lcinfo.lcValid s.lcinfo.secretValid
        s.lcinfo.testUnlock s.lcinfo.testExit s.lcinfo.rma))) ∧
    exec .gethw s = .next (s.answer (.hwConfig s.hwcfg))

/-- A broadcast signal takes its level: DEBUG_EN and CHECK_BYP_EN do nothing more, the seed signals set the lock flags
of the seed partitions, and a level of ESCALATE_EN that does not rise does nothing more
(spec/47_interfaces.md R340, R341). -/
def Obligations.SignalLevels : Prop :=
  ∀ (s : State) (b : Bool),
    exec (.lcsig .debugEn b) s = .next { s with lcSignals := { s.lcSignals with debugEn := b } } ∧
    exec (.lcsig .checkBypEn b) s = .next { s with lcSignals := { s.lcSignals with checkBypEn := b } } ∧
    (b = false ∨ s.lcSignals.escalateEn = true →
      exec (.lcsig .escalateEn b) s = .next { s with lcSignals := { s.lcSignals with escalateEn := b } }) ∧
    (∃ t, exec (.lcsig .seedReadEn b) s = .next t ∧ t.lcSignals = { s.lcSignals with seedReadEn := b } ∧
      s.frame [.lcSignals, .parts] t ∧ t.parts.length = s.parts.length ∧
      ∀ p, t.part p = if p ∈ s.cfg.seedParts ∧ p < s.parts.length then
          { s.part p with readLock := !b, writeLock := !s.lcSignals.seedWriteEn } else s.part p) ∧
    (∃ t, exec (.lcsig .seedWriteEn b) s = .next t ∧ t.lcSignals = { s.lcSignals with seedWriteEn := b } ∧
      s.frame [.lcSignals, .parts] t ∧ t.parts.length = s.parts.length ∧
      ∀ p, t.part p = if p ∈ s.cfg.seedParts ∧ p < s.parts.length then
          { s.part p with readLock := !s.lcSignals.seedReadEn, writeLock := !b } else s.part p)

/-- The rise of ESCALATE_EN forces every FSM into Error and FsmStateError into every slot, with the error interrupt and
the check alert; pending events and storage stay. From then on DAI commands and power-up pulses have no effect, every
window read faults, every LCI request is answered through LciFail, and every key of a partition of the table is
invalid (spec/60_exceptions.md R425). -/
def Obligations.EscalationForcesError : Prop :=
  ∀ s : State, s.lcSignals.escalateEn = false → s.err.length = s.cfg.nEntry → s.parts.length = s.cfg.nPart →
    ∃ t, exec (.lcsig .escalateEn true) s = .next t ∧
      t.lcSignals = { s.lcSignals with escalateEn := true } ∧
      t.dai = { s.dai with fsm := .error } ∧ t.lci = { s.lci with fsm := .error } ∧
      t.parts = s.parts.map (fun q => { q with fsm := .error }) ∧
      t.err = List.replicate (s.cfg.nPart + 2) .fsmState ∧ t.intrState = s.intrState ||| 2#2 ∧
      t.alertLatch = s.alertLatch ||| 2#2 ∧
      s.frame [.lcSignals, .dai, .lci, .parts, .err, .intrState, .alertLatch, .outputs] t ∧
      (∀ v, exec (.wrDaiCmd v) t = .next t) ∧ exec .pwrup t = .next t ∧
      (∀ woff : Word, woff.toNat % 4 = 0 → woff.toNat < t.cfg.swWindowSize →
        exec (.wrd woff) t = .next (t.answer .busError)) ∧
      (∀ st cnt cb, t.cfg.lcProgrammable st = true → cnt ≤ t.cfg.lcCntMax →
        exec (.lcprog st cnt cb) t =
          .next { t with pending := t.pending ++ [.lciFail cb], answers := t.answers ++ [.lcprog true] }) ∧
      (∀ k kt, t.cfg.keyTypes[k]? = some kt → kt.seedPart < t.cfg.nPart →
        ∃ u seed nonce, exec (.getkey k) t = .next u ∧ u.answers = t.answers ++ [.key seed nonce false])

/-- A window read that the policy refuses is a bus error with no other effect: no partition, the life-cycle partition,
a buffered partition, a partition that is not Idle, a digest trailer, an unreadable address
(spec/46_registers.md R320). -/
def Obligations.WindowReadPolicyFaults : Prop :=
  ∀ (s : State) (woff : Word), woff.toNat % 4 = 0 → woff.toNat < s.cfg.swWindowSize →
    (s.cfg.partitionOf woff.toNat = none ∨ ∃ p, s.cfg.partitionOf woff.toNat = some p ∧
      (p = s.cfg.lcPart ∨ (s.cfg.desc p).buffered = true ∨ (s.part p).fsm ≠ .idle ∨
        s.cfg.isDigestAddress p woff.toNat = true ∨ s.isReadable p woff.toNat = false)) →
    exec (.wrd woff) s = .next (s.answer .busError)

/-- A window read that the policy admits answers the checked word, recording a correction in the partition's slot; an
uncorrectable word is a bus error that fails the partition and raises the macro alert
(spec/46_registers.md R320, R321). -/
def Obligations.WindowReadAnswersCheckedWord : Prop :=
  ∀ (s : State) (woff : Word) (p : Nat), woff.toNat % 4 = 0 → woff.toNat < s.cfg.swWindowSize →
    s.cfg.partitionOf woff.toNat = some p → p ≠ s.cfg.lcPart → (s.cfg.desc p).buffered = false →
    (s.part p).fsm = .idle → s.cfg.isDigestAddress p woff.toNat = false → s.isReadable p woff.toNat = true →
    ((s.cfg.eccCheck32 s.image woff.toNat).2 = .clean →
      exec (.wrd woff) s = .next (s.answer (.data (s.cfg.eccCheck32 s.image woff.toNat).1))) ∧
    ((s.cfg.eccCheck32 s.image woff.toNat).2 = .corrected →
      ∃ t, exec (.wrd woff) s = .next t ∧ t.err = s.err.set p .eccCorrectable ∧
        t.intrState = s.intrState ||| 2#2 ∧
        t.answers = s.answers ++ [.data (s.cfg.eccCheck32 s.image woff.toNat).1] ∧
        s.frame [.err, .intrState, .answers, .outputs] t) ∧
    ((s.cfg.eccCheck32 s.image woff.toNat).2 = .uncorrectable →
      ∃ t, exec (.wrd woff) s = .next t ∧ t.err = s.err.set p .eccUncorrectable ∧
        t.intrState = s.intrState ||| 2#2 ∧ t.alertLatch = s.alertLatch ||| 1#2 ∧
        t.parts = s.parts.modify p (fun q => { q with failed := true, fsm := .error }) ∧
        t.answers = s.answers ++ [.busError] ∧
        s.frame [.err, .intrState, .alertLatch, .parts, .answers, .outputs] t)

/-- Any write to the window is a bus error, and no state changes (spec/46_registers.md R322). -/
def Obligations.WindowWriteFaults : Prop :=
  ∀ (s : State) (woff v : Word), woff.toNat < s.cfg.swWindowSize →
    exec (.wwr woff v) s = .next (s.answer .busError)

/-- GETKEY takes its nonce words and then its entropy words from the pool, free draws for the shortfall, derives the
key value from the seed bytes and the entropy, answers it with the validity of the owning partition, and asks for a
refill (spec/45_keyderiv.md R280, R282, R283). Where the key type's seed runs past its partition, the bytes read are the
model's choice (log 31); so is what a key type whose seed location names no partition of the table reads (log 27), what
one with fewer entropy words than R284 asks derives (log 30), and the width of the key value (log 13). -/
def Obligations.KeyRequestConsumesEntropy : Prop :=
  ∀ (s : State) (k : Nat) (kt : KeyType) (m : Nat), s.cfg.keyTypes[k]? = some kt →
    m = kt.nonceWords + kt.entropyWords →
    ∃ t, exec (.getkey k) s = .next t ∧
      t.answers = s.answers ++ [.key
        (s.cfg.deriveKey k
          ((List.range kt.keyBytes).map fun j =>
            if (s.cfg.desc kt.seedPart).buffered then (s.part kt.seedPart).buffer.getD (kt.seedOffset + j) 0#8
            else s.image.data.get ((s.cfg.desc kt.seedPart).byteOffset + kt.seedOffset + j))
          ((List.range kt.entropyWords).map fun j => s.entropyWord (kt.nonceWords + j)) s.image.digestIv)
        ((List.range kt.nonceWords).map s.entropyWord)
        ((s.part kt.seedPart).locked && !(s.part kt.seedPart).failed &&
          decide ((s.part kt.seedPart).fsm ≠ .error))] ∧
      t.pool.words = s.pool.words.drop m ∧ t.draws = s.draws + (m - s.pool.words.length) ∧
      t.pool.requested = (s.pool.requested || decide (s.pool.words.length - m < s.cfg.entropyCap)) ∧
      (s.pool.requested = t.pool.requested → t.pending = s.pending ∧ t.outputs = s.outputs) ∧
      (s.pool.requested ≠ t.pool.requested →
        t.pending = s.pending ++ [.entropyRequest] ∧ t.outputs = s.outputs ++ [.entropyReq]) ∧
      s.frame [.answers, .pool, .pending, .outputs, .draws] t

/-- An entropy delivery answers the outstanding request, is pushed at the back unless the pool is full, and is followed
by the next request when there is room; the fips flag has no effect (spec/45_keyderiv.md R281, R283). -/
def Obligations.EntropyDeliveryRefills : Prop :=
  ∀ (s : State) (w : Word) (f : Bool),
    ∃ t, exec (.entropy w f) s = .next t ∧ exec (.entropy w (!f)) s = .next t ∧
      t.pool.words = (if s.pool.words.length < s.cfg.entropyCap then s.pool.words ++ [w] else s.pool.words) ∧
      (t.pool.words.length < s.cfg.entropyCap → t.pool.requested = true ∧
        t.pending = s.pending.erase .entropyRequest ++ [.entropyRequest] ∧
        t.outputs = s.outputs ++ [.entropyReq]) ∧
      (s.cfg.entropyCap ≤ t.pool.words.length → t.pool.requested = false ∧
        t.pending = s.pending.erase .entropyRequest ∧ t.outputs = s.outputs) ∧
      s.frame [.pool, .pending, .outputs] t

/-- RESET gives every component the value of rule R450, discards the pending events without a callback, asks for
entropy, and keeps storage; then, until power-up, the write enable reads 0, commands have no effect, LCPROG answers
Busy, every window read faults and every key is invalid (spec/70_reset_and_hazards.md R450, R453). Its events are
ENTROPY_REQ, where the pool has room, and then what the cleared registers change of the lines. That the buffer of an
unbuffered partition is empty, and that a partition that is not read-lockable has a read enable too, is the model's
choice (log 20). -/
def Obligations.ResetRestoresEverything : Prop :=
  ∀ s : State, ∃ t, exec .reset s = .next t ∧
    t.parts.length = s.cfg.nPart ∧
    (∀ p, p < s.cfg.nPart → t.part p =
      { fsm := .reset, locked := false, readLock := decide (p ∈ s.cfg.seedParts),
        writeLock := decide (p ∈ s.cfg.seedParts), failed := false,
        buffer := if (s.cfg.desc p).buffered then List.replicate (s.cfg.desc p).byteSize 0#8 else [],
        digest := 0#64, nextDigest := 0#64 }) ∧
    t.dai = { fsm := .reset, part := none, pending := false, regwenSw := true, address := 0#32, wdata0 := 0#32,
              wdata1 := 0#32, rdata0 := 0#32, rdata1 := 0#32 } ∧
    t.lci = { fsm := .reset, buf := List.replicate s.cfg.lcWords 0#16, cursor := 0, err := .noError, cb := none } ∧
    (s.cfg.lcStates = defaultLcStates → t.lcinfo.state = 23#5) ∧
    t.lcinfo = { state := s.cfg.lcStates.invalid, count := 0, lcValid := false, secretValid := false,
                 testUnlock := { value := List.replicate s.cfg.tokenBytes 0#8, valid := false },
                 testExit := { value := List.replicate s.cfg.tokenBytes 0#8, valid := false },
                 rma := { value := List.replicate s.cfg.tokenBytes 0#8, valid := false } } ∧
    t.hwcfg = { deviceId := List.replicate s.cfg.deviceIdLoc.bytes 0#8,
                manufState := List.replicate s.cfg.manufStateLoc.bytes 0#8,
                debugState := List.replicate s.cfg.debugStateLoc.bytes 0#8,
                sramIfetchEnable := List.replicate s.cfg.sramIfetchLoc.bytes 0#8 } ∧
    t.intrState = 0#2 ∧ t.intrEnable = 0#2 ∧ t.alertLatch = 0#2 ∧
    t.err = List.replicate (s.cfg.nPart + 2) .noError ∧
    (∀ p, p < s.cfg.nPart → t.readEnAt p = true) ∧
    t.lcSignals = { debugEn := false, escalateEn := false, checkBypEn := false, seedReadEn := false,
                    seedWriteEn := false } ∧
    t.pool = { words := [], requested := decide (0 < s.cfg.entropyCap) } ∧
    t.pending = (if 0 < s.cfg.entropyCap then [.entropyRequest] else []) ∧
    (∃ ev, t.outputs = s.outputs ++ (if 0 < s.cfg.entropyCap then [.entropyReq] else []) ++ ev ∧
      ∀ o ∈ ev, o.plain = false) ∧
    (∀ cb ok, .lcAck cb ok ∉ t.outputs.drop s.outputs.length) ∧
    t.image = s.image ∧ t.backing = s.backing ∧ t.cfg = s.cfg ∧ t.inbox = s.inbox ∧ t.answers = s.answers ∧
    t.draws = s.draws ∧
    exec .rdDaiRegwen t = .next (t.answer (.data 0#32)) ∧ (∀ v, exec (.wrDaiCmd v) t = .next t) ∧
    (∀ st cnt cb, t.cfg.lcProgrammable st = true → cnt ≤ t.cfg.lcCntMax →
      exec (.lcprog st cnt cb) t = .next (t.answer (.lcprog false))) ∧
    (∀ woff : Word, woff.toNat % 4 = 0 → woff.toNat < t.cfg.swWindowSize →
      exec (.wrd woff) t = .next (t.answer .busError)) ∧
    ∀ k kt, t.cfg.keyTypes[k]? = some kt →
      ∃ u seed nonce, exec (.getkey k) t = .next u ∧ u.answers = t.answers ++ [.key seed nonce false]

/-- The state after construction meets the invariants, whatever the configuration and the image; for EX1 and its
initial image the storage is in canonical form too (EX1 as the configuration of the reset state is the model's
choice, log 1). -/
def Obligations.ConstructionMeetsInvariants : Prop :=
  (∀ (c : Config) (img : Image) (b : Option Backing), (State.constructed c img b).EngineInv ∧
    (State.constructed c img b).ShapeInv ∧
    ∀ k : Fin 2, lastIrq k (State.constructed c img b).outputs = (State.constructed c img b).line k.val) ∧
  State.reset.StorageInv

/-- The invariants of the engines and the pending events (spec/10_state.md R36, R37) hold after every step from a state
they hold in. -/
def Obligations.EngineInvariantIsKept : Prop :=
  ∀ s t : State, s.EngineInv → step s = .next t → t.EngineInv

/-- The shapes of the components (spec/10_state.md R23 to R34) hold after every step from a state they hold in. That an
unbuffered partition has an empty buffer, and that every partition has a read enable, is the model's choice (log 20). -/
def Obligations.ShapeIsKept : Prop :=
  ∀ s t : State, s.ShapeInv → step s = .next t → t.ShapeInv

/-- Storage and its backing copy stay in canonical form inside their regions through every step
(spec/20_memory.md R65: every access lies inside the data region). -/
def Obligations.StorageStaysCanonical : Prop :=
  ∀ s t : State, 0 < s.cfg.lcWords → s.EngineInv → s.StorageInv → step s = .next t → t.StorageInv

/-- No operation ever clears a bit of storage: bits may only go from 0 to 1 (spec/00_scope.md R8). -/
def Obligations.StorageBitsAreOnlySet : Prop :=
  ∀ s t : State, s.image.data.wf = true → step s = .next t →
    ∀ a, s.image.data.get a &&& ~~~t.image.data.get a = 0#8

/-- Error is left only by RESET, by the DAI, by the LCI and by every partition, and so is the failed flag
(spec/42_dai.md R225, spec/43_lci.md R248, spec/60_exceptions.md R422). -/
def Obligations.ErrorIsTerminal : Prop :=
  ∀ (i : Instr) (s t : State), s.EngineInv → exec i s = .next t → i ≠ .reset →
    (s.dai.fsm = .error → t.dai.fsm = .error) ∧ (s.lci.fsm = .error → t.lci.fsm = .error) ∧
    ∀ p, ((s.part p).fsm = .error → (t.part p).fsm = .error) ∧ ((s.part p).failed = true → (t.part p).failed = true)

/-- No operation changes a byte or a code of a locked partition, the life-cycle partition and a digest commit already
accepted aside (spec/20_memory.md R75, spec/42_dai.md R226). -/
def Obligations.LockedPartitionsNeverChange : Prop :=
  ∀ (i : Instr) (s t : State) (p : Nat), s.cfg.partTableOk = true → aligned4 s.cfg → 0 < s.cfg.lcWords →
    s.image.data.wf = true → s.image.ecc.wf = true → s.EngineInv → p < s.cfg.nPart → p ≠ s.cfg.lcPart →
    (s.part p).locked = true → ¬ (s.dai.fsm = .digestWait ∧ s.dai.part = some p) → exec i s = .next t →
    s.samePart p t

/-- The engines touch disjoint storage: a DAI command or completion changes no byte or code of the life-cycle
partition, and an LCI request or completion changes none of any other (spec/70_reset_and_hazards.md R467). -/
def Obligations.EnginesTouchDisjointStorage : Prop :=
  ∀ (i : Instr) (s t : State), s.cfg.partTableOk = true → aligned4 s.cfg → 0 < s.cfg.lcWords →
    s.image.data.wf = true → s.image.ecc.wf = true → s.EngineInv → exec i s = .next t →
    (((∃ x, i = .daiRd x) ∨ (∃ x, i = .daiWr x) ∨ (∃ x, i = .daiDigest x) ∨ (∃ x, i = .daiNone x) ∨
        (∃ v, i = .wrDaiCmd v) ∨ i = .fireDaiDone) → s.samePart s.cfg.lcPart t) ∧
    (((∃ st cnt cb, i = .lcprog st cnt cb) ∨ i = .fireLciWordDone ∨ ∃ cb, i = .fireLciFail cb) →
      ∀ a, ¬ inPart s.cfg s.cfg.lcPart a →
        t.image.data.get a = s.image.data.get a ∧ t.image.ecc.get (a / 2) = s.image.ecc.get (a / 2))

/-- Who changes what, over all operations: nothing changes the configuration; answers and outputs only grow; storage is
changed only by the operations that program it, RDATA only by DAI reads, the caches and runtime digests only by
power-up, the key-derivation slot only by escalation, the read enables only by READ_LOCK writes, each but the
first two also by RESET where R450 says so; the done interrupt is raised only by DAI commands and INTR_TEST, and an
alert latch is cleared only by its acknowledgement and RESET (spec/10_state.md R20, R21;
spec/20_memory.md R83; spec/44_powerup.md R270; spec/45_keyderiv.md R285; spec/46_registers.md R311, R316;
spec/60_exceptions.md R415, R418). -/
def Obligations.EachComponentHasItsWriters : Prop :=
  ∀ (i : Instr) (s t : State), s.cfg.partTableOk = true → exec i s = .next t →
    (t.cfg = s.cfg ∧ t.inbox = s.inbox ∧ s.answers <+: t.answers ∧ s.outputs <+: t.outputs) ∧
    (t.image ≠ s.image → (∃ x, i = .daiWr x) ∨ (∃ v, i = .wrDaiCmd v) ∨ i = .fireDaiDone ∨
      (∃ st cnt cb, i = .lcprog st cnt cb) ∨ i = .fireLciWordDone) ∧
    (t.dai.rdata0 ≠ s.dai.rdata0 ∨ t.dai.rdata1 ≠ s.dai.rdata1 →
      (∃ x, i = .daiRd x) ∨ (∃ v, i = .wrDaiCmd v ∧ v.getLsbD 0 = true) ∨ i = .reset) ∧
    (t.lcinfo ≠ s.lcinfo ∨ t.hwcfg ≠ s.hwcfg ∨
      (∃ p, (t.part p).digest ≠ (s.part p).digest ∨ (t.part p).buffer ≠ (s.part p).buffer) →
      i = .pwrup ∨ i = .reset) ∧
    (t.errAt (s.cfg.nPart + 1) ≠ s.errAt (s.cfg.nPart + 1) → i = .lcsig .escalateEn true ∨ i = .reset) ∧
    (t.readEn ≠ s.readEn → (∃ p v, i = .wrReadLock p v) ∨ i = .reset) ∧
    (s.intrState.getLsbD 0 = false → t.intrState.getLsbD 0 = true →
      (∃ x, i = .daiRd x) ∨ (∃ x, i = .daiWr x) ∨ (∃ x, i = .daiDigest x) ∨ (∃ v, i = .wrDaiCmd v) ∨
        i = .fireDaiDone ∨ ∃ v, i = .wrIntrTest v ∧ v.getLsbD 0 = true) ∧
    (∀ k, k < 2 → s.alertLatch.getLsbD k = true → t.alertLatch.getLsbD k = false → i = .alertack k ∨ i = .reset)

/-- Construction from a backing file: there is a device exactly when the partition table meets R62 and R63 and the file
meets R68, R70 and R71 (U13, U14); its image is what the file holds, with the configuration's digest parameters for
version 1 and the header's for version 2; its state is the state after reset; and its backing file is the file, byte for
byte (spec/20_memory.md R60, R68, R70 to R72, spec/47_interfaces.md R349). Loading the version-2 file written for an
image gives the image back; the padding of that file and its `eccgran` without ECC are the model's choice (log 29). It is the model's choice too that
a configuration with an irregular `REGMAP` (log 33) or a codec that breaks R240 or R241 (log 34) is a device, and that a
table with a partition of 0 bytes inside the one before it is none (log 38). -/
def Obligations.FileLoadInvertsFileWrite : Prop :=
  (∀ c : Config, (∃ s, construct c none = .ok s) ↔ TableRules c) ∧
  (∀ (c : Config) (f : List Byte), (∃ s, construct c (some f) = .ok s) ↔ TableRules c ∧ FileRules c f) ∧
  (∀ (c : Config) (f : List Byte) (s : State), construct c (some f) = .ok s →
    s = State.constructed c s.image s.backing ∧ s.backingFile = some f ∧
    s.image.eccEnabled = (decide (le16At f 12 ≠ 0) && decide (le32At f 20 ≠ 0)) ∧
    storageWf c s.image.data s.image.ecc = true ∧
    (∀ k, k < c.otpDataSize → s.image.data.get k = f.getD (8 + le32At f 4 + k) 0#8) ∧
    (s.image.eccEnabled = true → ∀ k, k < c.otpDataSize / 2 →
      s.image.ecc.get k = f.getD (8 + le32At f 4 + c.otpDataSize + k) 0#8) ∧
    (le32At f 8 = 1 → s.image.digestIv = c.defaultDigestIv ∧ s.image.digestConst = c.defaultDigestConst) ∧
    (le32At f 8 = 2 → s.image.digestIv = le64 f 24 ∧ s.image.digestConst = le64 f 40 ++ le64 f 32)) ∧
  ∀ (c : Config) (img : Image), c.otpDataSize % 8 = 0 → 0 < c.otpDataSize → c.otpDataSize < 4294967296 →
    storageWf c img.data img.ecc = true → (img.eccEnabled = false → img.ecc = []) →
    loadImage c (fileOf c img) = .ok img

end
end

