-- ==== Sys2Proof/Laws/State.lean ====
section
/-! SUPPORT. What each update of the state does to each component, one lemma per update and component. -/

namespace Sys2Proof.Machine

variable (s : State)
@[simp] theorem State.updPart_cfg (p : Nat) (f : Part → Part) : (State.updPart p f s).cfg = s.cfg := rfl
@[simp] theorem State.updPart_image (p : Nat) (f : Part → Part) : (State.updPart p f s).image = s.image := rfl
@[simp] theorem State.updPart_backing (p : Nat) (f : Part → Part) : (State.updPart p f s).backing = s.backing := rfl
@[simp] theorem State.updPart_parts (p : Nat) (f : Part → Part) : (State.updPart p f s).parts = s.parts.modify p f := rfl
@[simp] theorem State.updPart_dai (p : Nat) (f : Part → Part) : (State.updPart p f s).dai = s.dai := rfl
@[simp] theorem State.updPart_lci (p : Nat) (f : Part → Part) : (State.updPart p f s).lci = s.lci := rfl
@[simp] theorem State.updPart_lcinfo (p : Nat) (f : Part → Part) : (State.updPart p f s).lcinfo = s.lcinfo := rfl
@[simp] theorem State.updPart_hwcfg (p : Nat) (f : Part → Part) : (State.updPart p f s).hwcfg = s.hwcfg := rfl
@[simp] theorem State.updPart_intrState (p : Nat) (f : Part → Part) : (State.updPart p f s).intrState = s.intrState := rfl
@[simp] theorem State.updPart_intrEnable (p : Nat) (f : Part → Part) : (State.updPart p f s).intrEnable = s.intrEnable := rfl
@[simp] theorem State.updPart_alertLatch (p : Nat) (f : Part → Part) : (State.updPart p f s).alertLatch = s.alertLatch := rfl
@[simp] theorem State.updPart_err (p : Nat) (f : Part → Part) : (State.updPart p f s).err = s.err := rfl
@[simp] theorem State.updPart_readEn (p : Nat) (f : Part → Part) : (State.updPart p f s).readEn = s.readEn := rfl
@[simp] theorem State.updPart_lcSignals (p : Nat) (f : Part → Part) : (State.updPart p f s).lcSignals = s.lcSignals := rfl
@[simp] theorem State.updPart_pool (p : Nat) (f : Part → Part) : (State.updPart p f s).pool = s.pool := rfl
@[simp] theorem State.updPart_pending (p : Nat) (f : Part → Part) : (State.updPart p f s).pending = s.pending := rfl
@[simp] theorem State.updPart_inbox (p : Nat) (f : Part → Part) : (State.updPart p f s).inbox = s.inbox := rfl
@[simp] theorem State.updPart_answers (p : Nat) (f : Part → Part) : (State.updPart p f s).answers = s.answers := rfl
@[simp] theorem State.updPart_outputs (p : Nat) (f : Part → Part) : (State.updPart p f s).outputs = s.outputs := rfl
@[simp] theorem State.updPart_draws (p : Nat) (f : Part → Part) : (State.updPart p f s).draws = s.draws := rfl

@[simp] theorem State.mapDai_cfg (f : Dai → Dai) : (State.mapDai f s).cfg = s.cfg := rfl
@[simp] theorem State.mapDai_image (f : Dai → Dai) : (State.mapDai f s).image = s.image := rfl
@[simp] theorem State.mapDai_backing (f : Dai → Dai) : (State.mapDai f s).backing = s.backing := rfl
@[simp] theorem State.mapDai_parts (f : Dai → Dai) : (State.mapDai f s).parts = s.parts := rfl
@[simp] theorem State.mapDai_dai (f : Dai → Dai) : (State.mapDai f s).dai = f s.dai := rfl
@[simp] theorem State.mapDai_lci (f : Dai → Dai) : (State.mapDai f s).lci = s.lci := rfl
@[simp] theorem State.mapDai_lcinfo (f : Dai → Dai) : (State.mapDai f s).lcinfo = s.lcinfo := rfl
@[simp] theorem State.mapDai_hwcfg (f : Dai → Dai) : (State.mapDai f s).hwcfg = s.hwcfg := rfl
@[simp] theorem State.mapDai_intrState (f : Dai → Dai) : (State.mapDai f s).intrState = s.intrState := rfl
@[simp] theorem State.mapDai_intrEnable (f : Dai → Dai) : (State.mapDai f s).intrEnable = s.intrEnable := rfl
@[simp] theorem State.mapDai_alertLatch (f : Dai → Dai) : (State.mapDai f s).alertLatch = s.alertLatch := rfl
@[simp] theorem State.mapDai_err (f : Dai → Dai) : (State.mapDai f s).err = s.err := rfl
@[simp] theorem State.mapDai_readEn (f : Dai → Dai) : (State.mapDai f s).readEn = s.readEn := rfl
@[simp] theorem State.mapDai_lcSignals (f : Dai → Dai) : (State.mapDai f s).lcSignals = s.lcSignals := rfl
@[simp] theorem State.mapDai_pool (f : Dai → Dai) : (State.mapDai f s).pool = s.pool := rfl
@[simp] theorem State.mapDai_pending (f : Dai → Dai) : (State.mapDai f s).pending = s.pending := rfl
@[simp] theorem State.mapDai_inbox (f : Dai → Dai) : (State.mapDai f s).inbox = s.inbox := rfl
@[simp] theorem State.mapDai_answers (f : Dai → Dai) : (State.mapDai f s).answers = s.answers := rfl
@[simp] theorem State.mapDai_outputs (f : Dai → Dai) : (State.mapDai f s).outputs = s.outputs := rfl
@[simp] theorem State.mapDai_draws (f : Dai → Dai) : (State.mapDai f s).draws = s.draws := rfl

@[simp] theorem State.mapLci_cfg (f : Lci → Lci) : (State.mapLci f s).cfg = s.cfg := rfl
@[simp] theorem State.mapLci_image (f : Lci → Lci) : (State.mapLci f s).image = s.image := rfl
@[simp] theorem State.mapLci_backing (f : Lci → Lci) : (State.mapLci f s).backing = s.backing := rfl
@[simp] theorem State.mapLci_parts (f : Lci → Lci) : (State.mapLci f s).parts = s.parts := rfl
@[simp] theorem State.mapLci_dai (f : Lci → Lci) : (State.mapLci f s).dai = s.dai := rfl
@[simp] theorem State.mapLci_lci (f : Lci → Lci) : (State.mapLci f s).lci = f s.lci := rfl
@[simp] theorem State.mapLci_lcinfo (f : Lci → Lci) : (State.mapLci f s).lcinfo = s.lcinfo := rfl
@[simp] theorem State.mapLci_hwcfg (f : Lci → Lci) : (State.mapLci f s).hwcfg = s.hwcfg := rfl
@[simp] theorem State.mapLci_intrState (f : Lci → Lci) : (State.mapLci f s).intrState = s.intrState := rfl
@[simp] theorem State.mapLci_intrEnable (f : Lci → Lci) : (State.mapLci f s).intrEnable = s.intrEnable := rfl
@[simp] theorem State.mapLci_alertLatch (f : Lci → Lci) : (State.mapLci f s).alertLatch = s.alertLatch := rfl
@[simp] theorem State.mapLci_err (f : Lci → Lci) : (State.mapLci f s).err = s.err := rfl
@[simp] theorem State.mapLci_readEn (f : Lci → Lci) : (State.mapLci f s).readEn = s.readEn := rfl
@[simp] theorem State.mapLci_lcSignals (f : Lci → Lci) : (State.mapLci f s).lcSignals = s.lcSignals := rfl
@[simp] theorem State.mapLci_pool (f : Lci → Lci) : (State.mapLci f s).pool = s.pool := rfl
@[simp] theorem State.mapLci_pending (f : Lci → Lci) : (State.mapLci f s).pending = s.pending := rfl
@[simp] theorem State.mapLci_inbox (f : Lci → Lci) : (State.mapLci f s).inbox = s.inbox := rfl
@[simp] theorem State.mapLci_answers (f : Lci → Lci) : (State.mapLci f s).answers = s.answers := rfl
@[simp] theorem State.mapLci_outputs (f : Lci → Lci) : (State.mapLci f s).outputs = s.outputs := rfl
@[simp] theorem State.mapLci_draws (f : Lci → Lci) : (State.mapLci f s).draws = s.draws := rfl

@[simp] theorem State.setImage_cfg (img : Image) : (State.setImage img s).cfg = s.cfg := rfl
@[simp] theorem State.setImage_image (img : Image) : (State.setImage img s).image = img := rfl
@[simp] theorem State.setImage_backing (img : Image) : (State.setImage img s).backing = s.backing := rfl
@[simp] theorem State.setImage_parts (img : Image) : (State.setImage img s).parts = s.parts := rfl
@[simp] theorem State.setImage_dai (img : Image) : (State.setImage img s).dai = s.dai := rfl
@[simp] theorem State.setImage_lci (img : Image) : (State.setImage img s).lci = s.lci := rfl
@[simp] theorem State.setImage_lcinfo (img : Image) : (State.setImage img s).lcinfo = s.lcinfo := rfl
@[simp] theorem State.setImage_hwcfg (img : Image) : (State.setImage img s).hwcfg = s.hwcfg := rfl
@[simp] theorem State.setImage_intrState (img : Image) : (State.setImage img s).intrState = s.intrState := rfl
@[simp] theorem State.setImage_intrEnable (img : Image) : (State.setImage img s).intrEnable = s.intrEnable := rfl
@[simp] theorem State.setImage_alertLatch (img : Image) : (State.setImage img s).alertLatch = s.alertLatch := rfl
@[simp] theorem State.setImage_err (img : Image) : (State.setImage img s).err = s.err := rfl
@[simp] theorem State.setImage_readEn (img : Image) : (State.setImage img s).readEn = s.readEn := rfl
@[simp] theorem State.setImage_lcSignals (img : Image) : (State.setImage img s).lcSignals = s.lcSignals := rfl
@[simp] theorem State.setImage_pool (img : Image) : (State.setImage img s).pool = s.pool := rfl
@[simp] theorem State.setImage_pending (img : Image) : (State.setImage img s).pending = s.pending := rfl
@[simp] theorem State.setImage_inbox (img : Image) : (State.setImage img s).inbox = s.inbox := rfl
@[simp] theorem State.setImage_answers (img : Image) : (State.setImage img s).answers = s.answers := rfl
@[simp] theorem State.setImage_outputs (img : Image) : (State.setImage img s).outputs = s.outputs := rfl
@[simp] theorem State.setImage_draws (img : Image) : (State.setImage img s).draws = s.draws := rfl

@[simp] theorem State.setErr_cfg (i : Nat) (c : ErrCode) : (State.setErr i c s).cfg = s.cfg := rfl
@[simp] theorem State.setErr_image (i : Nat) (c : ErrCode) : (State.setErr i c s).image = s.image := rfl
@[simp] theorem State.setErr_backing (i : Nat) (c : ErrCode) : (State.setErr i c s).backing = s.backing := rfl
@[simp] theorem State.setErr_parts (i : Nat) (c : ErrCode) : (State.setErr i c s).parts = s.parts := rfl
@[simp] theorem State.setErr_dai (i : Nat) (c : ErrCode) : (State.setErr i c s).dai = s.dai := rfl
@[simp] theorem State.setErr_lci (i : Nat) (c : ErrCode) : (State.setErr i c s).lci = s.lci := rfl
@[simp] theorem State.setErr_lcinfo (i : Nat) (c : ErrCode) : (State.setErr i c s).lcinfo = s.lcinfo := rfl
@[simp] theorem State.setErr_hwcfg (i : Nat) (c : ErrCode) : (State.setErr i c s).hwcfg = s.hwcfg := rfl
@[simp] theorem State.setErr_intrState (i : Nat) (c : ErrCode) : (State.setErr i c s).intrState = s.intrState := rfl
@[simp] theorem State.setErr_intrEnable (i : Nat) (c : ErrCode) : (State.setErr i c s).intrEnable = s.intrEnable := rfl
@[simp] theorem State.setErr_alertLatch (i : Nat) (c : ErrCode) : (State.setErr i c s).alertLatch = s.alertLatch := rfl
@[simp] theorem State.setErr_err (i : Nat) (c : ErrCode) : (State.setErr i c s).err = s.err.set i c := rfl
@[simp] theorem State.setErr_readEn (i : Nat) (c : ErrCode) : (State.setErr i c s).readEn = s.readEn := rfl
@[simp] theorem State.setErr_lcSignals (i : Nat) (c : ErrCode) : (State.setErr i c s).lcSignals = s.lcSignals := rfl
@[simp] theorem State.setErr_pool (i : Nat) (c : ErrCode) : (State.setErr i c s).pool = s.pool := rfl
@[simp] theorem State.setErr_pending (i : Nat) (c : ErrCode) : (State.setErr i c s).pending = s.pending := rfl
@[simp] theorem State.setErr_inbox (i : Nat) (c : ErrCode) : (State.setErr i c s).inbox = s.inbox := rfl
@[simp] theorem State.setErr_answers (i : Nat) (c : ErrCode) : (State.setErr i c s).answers = s.answers := rfl
@[simp] theorem State.setErr_outputs (i : Nat) (c : ErrCode) : (State.setErr i c s).outputs = s.outputs := rfl
@[simp] theorem State.setErr_draws (i : Nat) (c : ErrCode) : (State.setErr i c s).draws = s.draws := rfl

@[simp] theorem State.record_cfg (i : Nat) (c : ErrCode) : (State.record i c s).cfg = s.cfg := rfl
@[simp] theorem State.record_image (i : Nat) (c : ErrCode) : (State.record i c s).image = s.image := rfl
@[simp] theorem State.record_backing (i : Nat) (c : ErrCode) : (State.record i c s).backing = s.backing := rfl
@[simp] theorem State.record_parts (i : Nat) (c : ErrCode) : (State.record i c s).parts = s.parts := rfl
@[simp] theorem State.record_dai (i : Nat) (c : ErrCode) : (State.record i c s).dai = s.dai := rfl
@[simp] theorem State.record_lci (i : Nat) (c : ErrCode) : (State.record i c s).lci = s.lci := rfl
@[simp] theorem State.record_lcinfo (i : Nat) (c : ErrCode) : (State.record i c s).lcinfo = s.lcinfo := rfl
@[simp] theorem State.record_hwcfg (i : Nat) (c : ErrCode) : (State.record i c s).hwcfg = s.hwcfg := rfl
@[simp] theorem State.record_intrState (i : Nat) (c : ErrCode) : (State.record i c s).intrState = s.intrState ||| interruptOf c := rfl
@[simp] theorem State.record_intrEnable (i : Nat) (c : ErrCode) : (State.record i c s).intrEnable = s.intrEnable := rfl
@[simp] theorem State.record_alertLatch (i : Nat) (c : ErrCode) : (State.record i c s).alertLatch = s.alertLatch ||| alertOf c := rfl
@[simp] theorem State.record_err (i : Nat) (c : ErrCode) : (State.record i c s).err = s.err.set i c := rfl
@[simp] theorem State.record_readEn (i : Nat) (c : ErrCode) : (State.record i c s).readEn = s.readEn := rfl
@[simp] theorem State.record_lcSignals (i : Nat) (c : ErrCode) : (State.record i c s).lcSignals = s.lcSignals := rfl
@[simp] theorem State.record_pool (i : Nat) (c : ErrCode) : (State.record i c s).pool = s.pool := rfl
@[simp] theorem State.record_pending (i : Nat) (c : ErrCode) : (State.record i c s).pending = s.pending := rfl
@[simp] theorem State.record_inbox (i : Nat) (c : ErrCode) : (State.record i c s).inbox = s.inbox := rfl
@[simp] theorem State.record_answers (i : Nat) (c : ErrCode) : (State.record i c s).answers = s.answers := rfl
@[simp] theorem State.record_outputs (i : Nat) (c : ErrCode) : (State.record i c s).outputs = s.outputs := rfl
@[simp] theorem State.record_draws (i : Nat) (c : ErrCode) : (State.record i c s).draws = s.draws := rfl

@[simp] theorem State.raiseDone_cfg : (State.raiseDone s).cfg = s.cfg := rfl
@[simp] theorem State.raiseDone_image : (State.raiseDone s).image = s.image := rfl
@[simp] theorem State.raiseDone_backing : (State.raiseDone s).backing = s.backing := rfl
@[simp] theorem State.raiseDone_parts : (State.raiseDone s).parts = s.parts := rfl
@[simp] theorem State.raiseDone_dai : (State.raiseDone s).dai = s.dai := rfl
@[simp] theorem State.raiseDone_lci : (State.raiseDone s).lci = s.lci := rfl
@[simp] theorem State.raiseDone_lcinfo : (State.raiseDone s).lcinfo = s.lcinfo := rfl
@[simp] theorem State.raiseDone_hwcfg : (State.raiseDone s).hwcfg = s.hwcfg := rfl
@[simp] theorem State.raiseDone_intrState : (State.raiseDone s).intrState = s.intrState ||| doneBit := rfl
@[simp] theorem State.raiseDone_intrEnable : (State.raiseDone s).intrEnable = s.intrEnable := rfl
@[simp] theorem State.raiseDone_alertLatch : (State.raiseDone s).alertLatch = s.alertLatch := rfl
@[simp] theorem State.raiseDone_err : (State.raiseDone s).err = s.err := rfl
@[simp] theorem State.raiseDone_readEn : (State.raiseDone s).readEn = s.readEn := rfl
@[simp] theorem State.raiseDone_lcSignals : (State.raiseDone s).lcSignals = s.lcSignals := rfl
@[simp] theorem State.raiseDone_pool : (State.raiseDone s).pool = s.pool := rfl
@[simp] theorem State.raiseDone_pending : (State.raiseDone s).pending = s.pending := rfl
@[simp] theorem State.raiseDone_inbox : (State.raiseDone s).inbox = s.inbox := rfl
@[simp] theorem State.raiseDone_answers : (State.raiseDone s).answers = s.answers := rfl
@[simp] theorem State.raiseDone_outputs : (State.raiseDone s).outputs = s.outputs := rfl
@[simp] theorem State.raiseDone_draws : (State.raiseDone s).draws = s.draws := rfl

@[simp] theorem State.schedule_cfg (e : Event) : (State.schedule e s).cfg = s.cfg := rfl
@[simp] theorem State.schedule_image (e : Event) : (State.schedule e s).image = s.image := rfl
@[simp] theorem State.schedule_backing (e : Event) : (State.schedule e s).backing = s.backing := rfl
@[simp] theorem State.schedule_parts (e : Event) : (State.schedule e s).parts = s.parts := rfl
@[simp] theorem State.schedule_dai (e : Event) : (State.schedule e s).dai = s.dai := rfl
@[simp] theorem State.schedule_lci (e : Event) : (State.schedule e s).lci = s.lci := rfl
@[simp] theorem State.schedule_lcinfo (e : Event) : (State.schedule e s).lcinfo = s.lcinfo := rfl
@[simp] theorem State.schedule_hwcfg (e : Event) : (State.schedule e s).hwcfg = s.hwcfg := rfl
@[simp] theorem State.schedule_intrState (e : Event) : (State.schedule e s).intrState = s.intrState := rfl
@[simp] theorem State.schedule_intrEnable (e : Event) : (State.schedule e s).intrEnable = s.intrEnable := rfl
@[simp] theorem State.schedule_alertLatch (e : Event) : (State.schedule e s).alertLatch = s.alertLatch := rfl
@[simp] theorem State.schedule_err (e : Event) : (State.schedule e s).err = s.err := rfl
@[simp] theorem State.schedule_readEn (e : Event) : (State.schedule e s).readEn = s.readEn := rfl
@[simp] theorem State.schedule_lcSignals (e : Event) : (State.schedule e s).lcSignals = s.lcSignals := rfl
@[simp] theorem State.schedule_pool (e : Event) : (State.schedule e s).pool = s.pool := rfl
@[simp] theorem State.schedule_pending (e : Event) : (State.schedule e s).pending = s.pending ++ [e] := rfl
@[simp] theorem State.schedule_inbox (e : Event) : (State.schedule e s).inbox = s.inbox := rfl
@[simp] theorem State.schedule_answers (e : Event) : (State.schedule e s).answers = s.answers := rfl
@[simp] theorem State.schedule_outputs (e : Event) : (State.schedule e s).outputs = s.outputs := rfl
@[simp] theorem State.schedule_draws (e : Event) : (State.schedule e s).draws = s.draws := rfl

@[simp] theorem State.unschedule_cfg (e : Event) : (State.unschedule e s).cfg = s.cfg := rfl
@[simp] theorem State.unschedule_image (e : Event) : (State.unschedule e s).image = s.image := rfl
@[simp] theorem State.unschedule_backing (e : Event) : (State.unschedule e s).backing = s.backing := rfl
@[simp] theorem State.unschedule_parts (e : Event) : (State.unschedule e s).parts = s.parts := rfl
@[simp] theorem State.unschedule_dai (e : Event) : (State.unschedule e s).dai = s.dai := rfl
@[simp] theorem State.unschedule_lci (e : Event) : (State.unschedule e s).lci = s.lci := rfl
@[simp] theorem State.unschedule_lcinfo (e : Event) : (State.unschedule e s).lcinfo = s.lcinfo := rfl
@[simp] theorem State.unschedule_hwcfg (e : Event) : (State.unschedule e s).hwcfg = s.hwcfg := rfl
@[simp] theorem State.unschedule_intrState (e : Event) : (State.unschedule e s).intrState = s.intrState := rfl
@[simp] theorem State.unschedule_intrEnable (e : Event) : (State.unschedule e s).intrEnable = s.intrEnable := rfl
@[simp] theorem State.unschedule_alertLatch (e : Event) : (State.unschedule e s).alertLatch = s.alertLatch := rfl
@[simp] theorem State.unschedule_err (e : Event) : (State.unschedule e s).err = s.err := rfl
@[simp] theorem State.unschedule_readEn (e : Event) : (State.unschedule e s).readEn = s.readEn := rfl
@[simp] theorem State.unschedule_lcSignals (e : Event) : (State.unschedule e s).lcSignals = s.lcSignals := rfl
@[simp] theorem State.unschedule_pool (e : Event) : (State.unschedule e s).pool = s.pool := rfl
@[simp] theorem State.unschedule_pending (e : Event) : (State.unschedule e s).pending = s.pending.erase e := rfl
@[simp] theorem State.unschedule_inbox (e : Event) : (State.unschedule e s).inbox = s.inbox := rfl
@[simp] theorem State.unschedule_answers (e : Event) : (State.unschedule e s).answers = s.answers := rfl
@[simp] theorem State.unschedule_outputs (e : Event) : (State.unschedule e s).outputs = s.outputs := rfl
@[simp] theorem State.unschedule_draws (e : Event) : (State.unschedule e s).draws = s.draws := rfl

@[simp] theorem State.emit_cfg (o : Output) : (State.emit o s).cfg = s.cfg := rfl
@[simp] theorem State.emit_image (o : Output) : (State.emit o s).image = s.image := rfl
@[simp] theorem State.emit_backing (o : Output) : (State.emit o s).backing = s.backing := rfl
@[simp] theorem State.emit_parts (o : Output) : (State.emit o s).parts = s.parts := rfl
@[simp] theorem State.emit_dai (o : Output) : (State.emit o s).dai = s.dai := rfl
@[simp] theorem State.emit_lci (o : Output) : (State.emit o s).lci = s.lci := rfl
@[simp] theorem State.emit_lcinfo (o : Output) : (State.emit o s).lcinfo = s.lcinfo := rfl
@[simp] theorem State.emit_hwcfg (o : Output) : (State.emit o s).hwcfg = s.hwcfg := rfl
@[simp] theorem State.emit_intrState (o : Output) : (State.emit o s).intrState = s.intrState := rfl
@[simp] theorem State.emit_intrEnable (o : Output) : (State.emit o s).intrEnable = s.intrEnable := rfl
@[simp] theorem State.emit_alertLatch (o : Output) : (State.emit o s).alertLatch = s.alertLatch := rfl
@[simp] theorem State.emit_err (o : Output) : (State.emit o s).err = s.err := rfl
@[simp] theorem State.emit_readEn (o : Output) : (State.emit o s).readEn = s.readEn := rfl
@[simp] theorem State.emit_lcSignals (o : Output) : (State.emit o s).lcSignals = s.lcSignals := rfl
@[simp] theorem State.emit_pool (o : Output) : (State.emit o s).pool = s.pool := rfl
@[simp] theorem State.emit_pending (o : Output) : (State.emit o s).pending = s.pending := rfl
@[simp] theorem State.emit_inbox (o : Output) : (State.emit o s).inbox = s.inbox := rfl
@[simp] theorem State.emit_answers (o : Output) : (State.emit o s).answers = s.answers := rfl
@[simp] theorem State.emit_outputs (o : Output) : (State.emit o s).outputs = s.outputs ++ [o] := rfl
@[simp] theorem State.emit_draws (o : Output) : (State.emit o s).draws = s.draws := rfl

@[simp] theorem State.answer_cfg (a : Answer) : (State.answer a s).cfg = s.cfg := rfl
@[simp] theorem State.answer_image (a : Answer) : (State.answer a s).image = s.image := rfl
@[simp] theorem State.answer_backing (a : Answer) : (State.answer a s).backing = s.backing := rfl
@[simp] theorem State.answer_parts (a : Answer) : (State.answer a s).parts = s.parts := rfl
@[simp] theorem State.answer_dai (a : Answer) : (State.answer a s).dai = s.dai := rfl
@[simp] theorem State.answer_lci (a : Answer) : (State.answer a s).lci = s.lci := rfl
@[simp] theorem State.answer_lcinfo (a : Answer) : (State.answer a s).lcinfo = s.lcinfo := rfl
@[simp] theorem State.answer_hwcfg (a : Answer) : (State.answer a s).hwcfg = s.hwcfg := rfl
@[simp] theorem State.answer_intrState (a : Answer) : (State.answer a s).intrState = s.intrState := rfl
@[simp] theorem State.answer_intrEnable (a : Answer) : (State.answer a s).intrEnable = s.intrEnable := rfl
@[simp] theorem State.answer_alertLatch (a : Answer) : (State.answer a s).alertLatch = s.alertLatch := rfl
@[simp] theorem State.answer_err (a : Answer) : (State.answer a s).err = s.err := rfl
@[simp] theorem State.answer_readEn (a : Answer) : (State.answer a s).readEn = s.readEn := rfl
@[simp] theorem State.answer_lcSignals (a : Answer) : (State.answer a s).lcSignals = s.lcSignals := rfl
@[simp] theorem State.answer_pool (a : Answer) : (State.answer a s).pool = s.pool := rfl
@[simp] theorem State.answer_pending (a : Answer) : (State.answer a s).pending = s.pending := rfl
@[simp] theorem State.answer_inbox (a : Answer) : (State.answer a s).inbox = s.inbox := rfl
@[simp] theorem State.answer_answers (a : Answer) : (State.answer a s).answers = s.answers ++ [a] := rfl
@[simp] theorem State.answer_outputs (a : Answer) : (State.answer a s).outputs = s.outputs := rfl
@[simp] theorem State.answer_draws (a : Answer) : (State.answer a s).draws = s.draws := rfl

@[simp] theorem State.updateOutputs_cfg (b : State) : (State.updateOutputs b s).cfg = s.cfg := rfl
@[simp] theorem State.updateOutputs_image (b : State) : (State.updateOutputs b s).image = s.image := rfl
@[simp] theorem State.updateOutputs_backing (b : State) : (State.updateOutputs b s).backing = s.backing := rfl
@[simp] theorem State.updateOutputs_parts (b : State) : (State.updateOutputs b s).parts = s.parts := rfl
@[simp] theorem State.updateOutputs_dai (b : State) : (State.updateOutputs b s).dai = s.dai := rfl
@[simp] theorem State.updateOutputs_lci (b : State) : (State.updateOutputs b s).lci = s.lci := rfl
@[simp] theorem State.updateOutputs_lcinfo (b : State) : (State.updateOutputs b s).lcinfo = s.lcinfo := rfl
@[simp] theorem State.updateOutputs_hwcfg (b : State) : (State.updateOutputs b s).hwcfg = s.hwcfg := rfl
@[simp] theorem State.updateOutputs_intrState (b : State) : (State.updateOutputs b s).intrState = s.intrState := rfl
@[simp] theorem State.updateOutputs_intrEnable (b : State) : (State.updateOutputs b s).intrEnable = s.intrEnable := rfl
@[simp] theorem State.updateOutputs_alertLatch (b : State) : (State.updateOutputs b s).alertLatch = s.alertLatch := rfl
@[simp] theorem State.updateOutputs_err (b : State) : (State.updateOutputs b s).err = s.err := rfl
@[simp] theorem State.updateOutputs_readEn (b : State) : (State.updateOutputs b s).readEn = s.readEn := rfl
@[simp] theorem State.updateOutputs_lcSignals (b : State) : (State.updateOutputs b s).lcSignals = s.lcSignals := rfl
@[simp] theorem State.updateOutputs_pool (b : State) : (State.updateOutputs b s).pool = s.pool := rfl
@[simp] theorem State.updateOutputs_pending (b : State) : (State.updateOutputs b s).pending = s.pending := rfl
@[simp] theorem State.updateOutputs_inbox (b : State) : (State.updateOutputs b s).inbox = s.inbox := rfl
@[simp] theorem State.updateOutputs_answers (b : State) : (State.updateOutputs b s).answers = s.answers := rfl
@[simp] theorem State.updateOutputs_outputs (b : State) : (State.updateOutputs b s).outputs = s.outputs ++ outputChanges b s := rfl
@[simp] theorem State.updateOutputs_draws (b : State) : (State.updateOutputs b s).draws = s.draws := rfl

end Sys2Proof.Machine
end

