-- ==== Sys2Proof/Laws/Ops.lean ====
section
/-! SUPPORT. What the shared operations can do, component by component: the ends of a DAI command, persistence,
refill, escalation, seed locks; and the accessors after an update. -/

namespace Sys2Proof.Machine

variable (s : State)

-- A rejected DAI command.
@[simp] theorem State.reject_cfg (c : ErrCode) : (State.reject c s).cfg = s.cfg := rfl
@[simp] theorem State.reject_image (c : ErrCode) : (State.reject c s).image = s.image := rfl
@[simp] theorem State.reject_backing (c : ErrCode) : (State.reject c s).backing = s.backing := rfl
@[simp] theorem State.reject_parts (c : ErrCode) : (State.reject c s).parts = s.parts := rfl
@[simp] theorem State.reject_dai (c : ErrCode) : (State.reject c s).dai = { s.dai with fsm := .idle, part := none } := rfl
@[simp] theorem State.reject_lci (c : ErrCode) : (State.reject c s).lci = s.lci := rfl
@[simp] theorem State.reject_lcinfo (c : ErrCode) : (State.reject c s).lcinfo = s.lcinfo := rfl
@[simp] theorem State.reject_hwcfg (c : ErrCode) : (State.reject c s).hwcfg = s.hwcfg := rfl
@[simp] theorem State.reject_intrState (c : ErrCode) : (State.reject c s).intrState = s.intrState ||| interruptOf c ||| doneBit := rfl
@[simp] theorem State.reject_intrEnable (c : ErrCode) : (State.reject c s).intrEnable = s.intrEnable := rfl
@[simp] theorem State.reject_alertLatch (c : ErrCode) : (State.reject c s).alertLatch = s.alertLatch ||| alertOf c := rfl
@[simp] theorem State.reject_err (c : ErrCode) : (State.reject c s).err = s.err.set s.cfg.daiSlot c := rfl
@[simp] theorem State.reject_readEn (c : ErrCode) : (State.reject c s).readEn = s.readEn := rfl
@[simp] theorem State.reject_lcSignals (c : ErrCode) : (State.reject c s).lcSignals = s.lcSignals := rfl
@[simp] theorem State.reject_pool (c : ErrCode) : (State.reject c s).pool = s.pool := rfl
@[simp] theorem State.reject_pending (c : ErrCode) : (State.reject c s).pending = s.pending := rfl
@[simp] theorem State.reject_inbox (c : ErrCode) : (State.reject c s).inbox = s.inbox := rfl
@[simp] theorem State.reject_answers (c : ErrCode) : (State.reject c s).answers = s.answers := rfl
@[simp] theorem State.reject_outputs (c : ErrCode) : (State.reject c s).outputs = s.outputs := rfl
@[simp] theorem State.reject_draws (c : ErrCode) : (State.reject c s).draws = s.draws := rfl

-- A fatal DAI command.
@[simp] theorem State.fatal_cfg (c : ErrCode) : (State.fatal c s).cfg = s.cfg := rfl
@[simp] theorem State.fatal_image (c : ErrCode) : (State.fatal c s).image = s.image := rfl
@[simp] theorem State.fatal_backing (c : ErrCode) : (State.fatal c s).backing = s.backing := rfl
@[simp] theorem State.fatal_parts (c : ErrCode) : (State.fatal c s).parts = s.parts := rfl
@[simp] theorem State.fatal_dai (c : ErrCode) : (State.fatal c s).dai = { s.dai with fsm := .error, part := none } := rfl
@[simp] theorem State.fatal_lci (c : ErrCode) : (State.fatal c s).lci = s.lci := rfl
@[simp] theorem State.fatal_lcinfo (c : ErrCode) : (State.fatal c s).lcinfo = s.lcinfo := rfl
@[simp] theorem State.fatal_hwcfg (c : ErrCode) : (State.fatal c s).hwcfg = s.hwcfg := rfl
@[simp] theorem State.fatal_intrState (c : ErrCode) : (State.fatal c s).intrState = s.intrState ||| interruptOf c := rfl
@[simp] theorem State.fatal_intrEnable (c : ErrCode) : (State.fatal c s).intrEnable = s.intrEnable := rfl
@[simp] theorem State.fatal_alertLatch (c : ErrCode) : (State.fatal c s).alertLatch = s.alertLatch ||| alertOf c := rfl
@[simp] theorem State.fatal_err (c : ErrCode) : (State.fatal c s).err = s.err.set s.cfg.daiSlot c := rfl
@[simp] theorem State.fatal_readEn (c : ErrCode) : (State.fatal c s).readEn = s.readEn := rfl
@[simp] theorem State.fatal_lcSignals (c : ErrCode) : (State.fatal c s).lcSignals = s.lcSignals := rfl
@[simp] theorem State.fatal_pool (c : ErrCode) : (State.fatal c s).pool = s.pool := rfl
@[simp] theorem State.fatal_pending (c : ErrCode) : (State.fatal c s).pending = s.pending := rfl
@[simp] theorem State.fatal_inbox (c : ErrCode) : (State.fatal c s).inbox = s.inbox := rfl
@[simp] theorem State.fatal_answers (c : ErrCode) : (State.fatal c s).answers = s.answers := rfl
@[simp] theorem State.fatal_outputs (c : ErrCode) : (State.fatal c s).outputs = s.outputs := rfl
@[simp] theorem State.fatal_draws (c : ErrCode) : (State.fatal c s).draws = s.draws := rfl

-- A finished DAI command.
@[simp] theorem State.daiFinish_cfg : (State.daiFinish s).cfg = s.cfg := rfl
@[simp] theorem State.daiFinish_image : (State.daiFinish s).image = s.image := rfl
@[simp] theorem State.daiFinish_backing : (State.daiFinish s).backing = s.backing := rfl
@[simp] theorem State.daiFinish_parts : (State.daiFinish s).parts = s.parts := rfl
@[simp] theorem State.daiFinish_dai : (State.daiFinish s).dai = { s.dai with fsm := .idle, part := none } := rfl
@[simp] theorem State.daiFinish_lci : (State.daiFinish s).lci = s.lci := rfl
@[simp] theorem State.daiFinish_lcinfo : (State.daiFinish s).lcinfo = s.lcinfo := rfl
@[simp] theorem State.daiFinish_hwcfg : (State.daiFinish s).hwcfg = s.hwcfg := rfl
@[simp] theorem State.daiFinish_intrState : (State.daiFinish s).intrState = s.intrState ||| doneBit := rfl
@[simp] theorem State.daiFinish_intrEnable : (State.daiFinish s).intrEnable = s.intrEnable := rfl
@[simp] theorem State.daiFinish_alertLatch : (State.daiFinish s).alertLatch = s.alertLatch := rfl
@[simp] theorem State.daiFinish_err : (State.daiFinish s).err = s.err := rfl
@[simp] theorem State.daiFinish_readEn : (State.daiFinish s).readEn = s.readEn := rfl
@[simp] theorem State.daiFinish_lcSignals : (State.daiFinish s).lcSignals = s.lcSignals := rfl
@[simp] theorem State.daiFinish_pool : (State.daiFinish s).pool = s.pool := rfl
@[simp] theorem State.daiFinish_pending : (State.daiFinish s).pending = s.pending := rfl
@[simp] theorem State.daiFinish_inbox : (State.daiFinish s).inbox = s.inbox := rfl
@[simp] theorem State.daiFinish_answers : (State.daiFinish s).answers = s.answers := rfl
@[simp] theorem State.daiFinish_outputs : (State.daiFinish s).outputs = s.outputs := rfl
@[simp] theorem State.daiFinish_draws : (State.daiFinish s).draws = s.draws := rfl

-- A waiting DAI command.
@[simp] theorem State.daiWait_cfg (p : Nat) (w : DaiFsm) : (State.daiWait p w s).cfg = s.cfg := rfl
@[simp] theorem State.daiWait_image (p : Nat) (w : DaiFsm) : (State.daiWait p w s).image = s.image := rfl
@[simp] theorem State.daiWait_backing (p : Nat) (w : DaiFsm) : (State.daiWait p w s).backing = s.backing := rfl
@[simp] theorem State.daiWait_parts (p : Nat) (w : DaiFsm) : (State.daiWait p w s).parts = s.parts := rfl
@[simp] theorem State.daiWait_dai (p : Nat) (w : DaiFsm) : (State.daiWait p w s).dai = { s.dai with part := some p, fsm := w, pending := true } := rfl
@[simp] theorem State.daiWait_lci (p : Nat) (w : DaiFsm) : (State.daiWait p w s).lci = s.lci := rfl
@[simp] theorem State.daiWait_lcinfo (p : Nat) (w : DaiFsm) : (State.daiWait p w s).lcinfo = s.lcinfo := rfl
@[simp] theorem State.daiWait_hwcfg (p : Nat) (w : DaiFsm) : (State.daiWait p w s).hwcfg = s.hwcfg := rfl
@[simp] theorem State.daiWait_intrState (p : Nat) (w : DaiFsm) : (State.daiWait p w s).intrState = s.intrState := rfl
@[simp] theorem State.daiWait_intrEnable (p : Nat) (w : DaiFsm) : (State.daiWait p w s).intrEnable = s.intrEnable := rfl
@[simp] theorem State.daiWait_alertLatch (p : Nat) (w : DaiFsm) : (State.daiWait p w s).alertLatch = s.alertLatch := rfl
@[simp] theorem State.daiWait_err (p : Nat) (w : DaiFsm) : (State.daiWait p w s).err = s.err := rfl
@[simp] theorem State.daiWait_readEn (p : Nat) (w : DaiFsm) : (State.daiWait p w s).readEn = s.readEn := rfl
@[simp] theorem State.daiWait_lcSignals (p : Nat) (w : DaiFsm) : (State.daiWait p w s).lcSignals = s.lcSignals := rfl
@[simp] theorem State.daiWait_pool (p : Nat) (w : DaiFsm) : (State.daiWait p w s).pool = s.pool := rfl
@[simp] theorem State.daiWait_pending (p : Nat) (w : DaiFsm) : (State.daiWait p w s).pending = s.pending ++ [.daiDone] := rfl
@[simp] theorem State.daiWait_inbox (p : Nat) (w : DaiFsm) : (State.daiWait p w s).inbox = s.inbox := rfl
@[simp] theorem State.daiWait_answers (p : Nat) (w : DaiFsm) : (State.daiWait p w s).answers = s.answers := rfl
@[simp] theorem State.daiWait_outputs (p : Nat) (w : DaiFsm) : (State.daiWait p w s).outputs = s.outputs := rfl
@[simp] theorem State.daiWait_draws (p : Nat) (w : DaiFsm) : (State.daiWait p w s).draws = s.draws := rfl

-- An accepted DAI command.
@[simp] theorem State.daiAccept_cfg (x : DaiFsm) : (State.daiAccept x s).cfg = s.cfg := rfl
@[simp] theorem State.daiAccept_image (x : DaiFsm) : (State.daiAccept x s).image = s.image := rfl
@[simp] theorem State.daiAccept_backing (x : DaiFsm) : (State.daiAccept x s).backing = s.backing := rfl
@[simp] theorem State.daiAccept_parts (x : DaiFsm) : (State.daiAccept x s).parts = s.parts := rfl
@[simp] theorem State.daiAccept_dai (x : DaiFsm) : (State.daiAccept x s).dai = { s.dai with fsm := x } := rfl
@[simp] theorem State.daiAccept_lci (x : DaiFsm) : (State.daiAccept x s).lci = s.lci := rfl
@[simp] theorem State.daiAccept_lcinfo (x : DaiFsm) : (State.daiAccept x s).lcinfo = s.lcinfo := rfl
@[simp] theorem State.daiAccept_hwcfg (x : DaiFsm) : (State.daiAccept x s).hwcfg = s.hwcfg := rfl
@[simp] theorem State.daiAccept_intrState (x : DaiFsm) : (State.daiAccept x s).intrState = s.intrState := rfl
@[simp] theorem State.daiAccept_intrEnable (x : DaiFsm) : (State.daiAccept x s).intrEnable = s.intrEnable := rfl
@[simp] theorem State.daiAccept_alertLatch (x : DaiFsm) : (State.daiAccept x s).alertLatch = s.alertLatch := rfl
@[simp] theorem State.daiAccept_err (x : DaiFsm) : (State.daiAccept x s).err = s.err.set s.cfg.daiSlot .noError := rfl
@[simp] theorem State.daiAccept_readEn (x : DaiFsm) : (State.daiAccept x s).readEn = s.readEn := rfl
@[simp] theorem State.daiAccept_lcSignals (x : DaiFsm) : (State.daiAccept x s).lcSignals = s.lcSignals := rfl
@[simp] theorem State.daiAccept_pool (x : DaiFsm) : (State.daiAccept x s).pool = s.pool := rfl
@[simp] theorem State.daiAccept_pending (x : DaiFsm) : (State.daiAccept x s).pending = s.pending := rfl
@[simp] theorem State.daiAccept_inbox (x : DaiFsm) : (State.daiAccept x s).inbox = s.inbox := rfl
@[simp] theorem State.daiAccept_answers (x : DaiFsm) : (State.daiAccept x s).answers = s.answers := rfl
@[simp] theorem State.daiAccept_outputs (x : DaiFsm) : (State.daiAccept x s).outputs = s.outputs := rfl
@[simp] theorem State.daiAccept_draws (x : DaiFsm) : (State.daiAccept x s).draws = s.draws := rfl

-- An uncorrectable window read.
@[simp] theorem State.windowUncorrectable_cfg (p : Nat) : (State.windowUncorrectable p s).cfg = s.cfg := rfl
@[simp] theorem State.windowUncorrectable_image (p : Nat) : (State.windowUncorrectable p s).image = s.image := rfl
@[simp] theorem State.windowUncorrectable_backing (p : Nat) : (State.windowUncorrectable p s).backing = s.backing := rfl
@[simp] theorem State.windowUncorrectable_parts (p : Nat) : (State.windowUncorrectable p s).parts = s.parts.modify p fun q => { q with failed := true, fsm := .error } := rfl
@[simp] theorem State.windowUncorrectable_dai (p : Nat) : (State.windowUncorrectable p s).dai = s.dai := rfl
@[simp] theorem State.windowUncorrectable_lci (p : Nat) : (State.windowUncorrectable p s).lci = s.lci := rfl
@[simp] theorem State.windowUncorrectable_lcinfo (p : Nat) : (State.windowUncorrectable p s).lcinfo = s.lcinfo := rfl
@[simp] theorem State.windowUncorrectable_hwcfg (p : Nat) : (State.windowUncorrectable p s).hwcfg = s.hwcfg := rfl
@[simp] theorem State.windowUncorrectable_intrState (p : Nat) : (State.windowUncorrectable p s).intrState = s.intrState ||| errorBit := rfl
@[simp] theorem State.windowUncorrectable_intrEnable (p : Nat) : (State.windowUncorrectable p s).intrEnable = s.intrEnable := rfl
@[simp] theorem State.windowUncorrectable_alertLatch (p : Nat) : (State.windowUncorrectable p s).alertLatch = s.alertLatch ||| macroAlert := rfl
@[simp] theorem State.windowUncorrectable_err (p : Nat) : (State.windowUncorrectable p s).err = s.err.set p .eccUncorrectable := rfl
@[simp] theorem State.windowUncorrectable_readEn (p : Nat) : (State.windowUncorrectable p s).readEn = s.readEn := rfl
@[simp] theorem State.windowUncorrectable_lcSignals (p : Nat) : (State.windowUncorrectable p s).lcSignals = s.lcSignals := rfl
@[simp] theorem State.windowUncorrectable_pool (p : Nat) : (State.windowUncorrectable p s).pool = s.pool := rfl
@[simp] theorem State.windowUncorrectable_pending (p : Nat) : (State.windowUncorrectable p s).pending = s.pending := rfl
@[simp] theorem State.windowUncorrectable_inbox (p : Nat) : (State.windowUncorrectable p s).inbox = s.inbox := rfl
@[simp] theorem State.windowUncorrectable_answers (p : Nat) : (State.windowUncorrectable p s).answers = s.answers := rfl
@[simp] theorem State.windowUncorrectable_outputs (p : Nat) : (State.windowUncorrectable p s).outputs = s.outputs := rfl
@[simp] theorem State.windowUncorrectable_draws (p : Nat) : (State.windowUncorrectable p s).draws = s.draws := rfl

-- One partition's seed locks.
@[simp] theorem State.seedLock_cfg (p : Nat) : (State.seedLock s p).cfg = s.cfg := rfl
@[simp] theorem State.seedLock_image (p : Nat) : (State.seedLock s p).image = s.image := rfl
@[simp] theorem State.seedLock_backing (p : Nat) : (State.seedLock s p).backing = s.backing := rfl
@[simp] theorem State.seedLock_parts (p : Nat) : (State.seedLock s p).parts = s.parts.modify p fun q => { q with readLock := !s.lcSignals.seedReadEn, writeLock := !s.lcSignals.seedWriteEn } := rfl
@[simp] theorem State.seedLock_dai (p : Nat) : (State.seedLock s p).dai = s.dai := rfl
@[simp] theorem State.seedLock_lci (p : Nat) : (State.seedLock s p).lci = s.lci := rfl
@[simp] theorem State.seedLock_lcinfo (p : Nat) : (State.seedLock s p).lcinfo = s.lcinfo := rfl
@[simp] theorem State.seedLock_hwcfg (p : Nat) : (State.seedLock s p).hwcfg = s.hwcfg := rfl
@[simp] theorem State.seedLock_intrState (p : Nat) : (State.seedLock s p).intrState = s.intrState := rfl
@[simp] theorem State.seedLock_intrEnable (p : Nat) : (State.seedLock s p).intrEnable = s.intrEnable := rfl
@[simp] theorem State.seedLock_alertLatch (p : Nat) : (State.seedLock s p).alertLatch = s.alertLatch := rfl
@[simp] theorem State.seedLock_err (p : Nat) : (State.seedLock s p).err = s.err := rfl
@[simp] theorem State.seedLock_readEn (p : Nat) : (State.seedLock s p).readEn = s.readEn := rfl
@[simp] theorem State.seedLock_lcSignals (p : Nat) : (State.seedLock s p).lcSignals = s.lcSignals := rfl
@[simp] theorem State.seedLock_pool (p : Nat) : (State.seedLock s p).pool = s.pool := rfl
@[simp] theorem State.seedLock_pending (p : Nat) : (State.seedLock s p).pending = s.pending := rfl
@[simp] theorem State.seedLock_inbox (p : Nat) : (State.seedLock s p).inbox = s.inbox := rfl
@[simp] theorem State.seedLock_answers (p : Nat) : (State.seedLock s p).answers = s.answers := rfl
@[simp] theorem State.seedLock_outputs (p : Nat) : (State.seedLock s p).outputs = s.outputs := rfl
@[simp] theorem State.seedLock_draws (p : Nat) : (State.seedLock s p).draws = s.draws := rfl

-- A refill touches the pool, the pending events and the outputs.
@[simp] theorem State.refill_cfg : (State.refill s).cfg = s.cfg := by
  unfold State.refill; split <;> rfl
@[simp] theorem State.refill_image : (State.refill s).image = s.image := by
  unfold State.refill; split <;> rfl
@[simp] theorem State.refill_backing : (State.refill s).backing = s.backing := by
  unfold State.refill; split <;> rfl
@[simp] theorem State.refill_parts : (State.refill s).parts = s.parts := by
  unfold State.refill; split <;> rfl
@[simp] theorem State.refill_dai : (State.refill s).dai = s.dai := by
  unfold State.refill; split <;> rfl
@[simp] theorem State.refill_lci : (State.refill s).lci = s.lci := by
  unfold State.refill; split <;> rfl
@[simp] theorem State.refill_lcinfo : (State.refill s).lcinfo = s.lcinfo := by
  unfold State.refill; split <;> rfl
@[simp] theorem State.refill_hwcfg : (State.refill s).hwcfg = s.hwcfg := by
  unfold State.refill; split <;> rfl
@[simp] theorem State.refill_intrState : (State.refill s).intrState = s.intrState := by
  unfold State.refill; split <;> rfl
@[simp] theorem State.refill_intrEnable : (State.refill s).intrEnable = s.intrEnable := by
  unfold State.refill; split <;> rfl
@[simp] theorem State.refill_alertLatch : (State.refill s).alertLatch = s.alertLatch := by
  unfold State.refill; split <;> rfl
@[simp] theorem State.refill_err : (State.refill s).err = s.err := by
  unfold State.refill; split <;> rfl
@[simp] theorem State.refill_readEn : (State.refill s).readEn = s.readEn := by
  unfold State.refill; split <;> rfl
@[simp] theorem State.refill_lcSignals : (State.refill s).lcSignals = s.lcSignals := by
  unfold State.refill; split <;> rfl
@[simp] theorem State.refill_inbox : (State.refill s).inbox = s.inbox := by
  unfold State.refill; split <;> rfl
@[simp] theorem State.refill_answers : (State.refill s).answers = s.answers := by
  unfold State.refill; split <;> rfl
@[simp] theorem State.refill_draws : (State.refill s).draws = s.draws := by
  unfold State.refill; split <;> rfl

-- A write-back touches the backing file and the draws.
@[simp] theorem State.persist_cfg (a n : Nat) : (State.persist a n s).cfg = s.cfg := by
  unfold State.persist; split <;> rfl
@[simp] theorem State.persist_image (a n : Nat) : (State.persist a n s).image = s.image := by
  unfold State.persist; split <;> rfl
@[simp] theorem State.persist_parts (a n : Nat) : (State.persist a n s).parts = s.parts := by
  unfold State.persist; split <;> rfl
@[simp] theorem State.persist_dai (a n : Nat) : (State.persist a n s).dai = s.dai := by
  unfold State.persist; split <;> rfl
@[simp] theorem State.persist_lci (a n : Nat) : (State.persist a n s).lci = s.lci := by
  unfold State.persist; split <;> rfl
@[simp] theorem State.persist_lcinfo (a n : Nat) : (State.persist a n s).lcinfo = s.lcinfo := by
  unfold State.persist; split <;> rfl
@[simp] theorem State.persist_hwcfg (a n : Nat) : (State.persist a n s).hwcfg = s.hwcfg := by
  unfold State.persist; split <;> rfl
@[simp] theorem State.persist_intrState (a n : Nat) : (State.persist a n s).intrState = s.intrState := by
  unfold State.persist; split <;> rfl
@[simp] theorem State.persist_intrEnable (a n : Nat) : (State.persist a n s).intrEnable = s.intrEnable := by
  unfold State.persist; split <;> rfl
@[simp] theorem State.persist_alertLatch (a n : Nat) : (State.persist a n s).alertLatch = s.alertLatch := by
  unfold State.persist; split <;> rfl
@[simp] theorem State.persist_err (a n : Nat) : (State.persist a n s).err = s.err := by
  unfold State.persist; split <;> rfl
@[simp] theorem State.persist_readEn (a n : Nat) : (State.persist a n s).readEn = s.readEn := by
  unfold State.persist; split <;> rfl
@[simp] theorem State.persist_lcSignals (a n : Nat) : (State.persist a n s).lcSignals = s.lcSignals := by
  unfold State.persist; split <;> rfl
@[simp] theorem State.persist_pool (a n : Nat) : (State.persist a n s).pool = s.pool := by
  unfold State.persist; split <;> rfl
@[simp] theorem State.persist_pending (a n : Nat) : (State.persist a n s).pending = s.pending := by
  unfold State.persist; split <;> rfl
@[simp] theorem State.persist_inbox (a n : Nat) : (State.persist a n s).inbox = s.inbox := by
  unfold State.persist; split <;> rfl
@[simp] theorem State.persist_answers (a n : Nat) : (State.persist a n s).answers = s.answers := by
  unfold State.persist; split <;> rfl
@[simp] theorem State.persist_outputs (a n : Nat) : (State.persist a n s).outputs = s.outputs := by
  unfold State.persist; split <;> rfl

-- A DAI command's write-back may also record an error.
@[simp] theorem State.persistDai_cfg (a n : Nat) : (State.persistDai a n s).cfg = s.cfg := by
  unfold State.persistDai; split <;> simp
@[simp] theorem State.persistDai_image (a n : Nat) : (State.persistDai a n s).image = s.image := by
  unfold State.persistDai; split <;> simp
@[simp] theorem State.persistDai_parts (a n : Nat) : (State.persistDai a n s).parts = s.parts := by
  unfold State.persistDai; split <;> simp
@[simp] theorem State.persistDai_dai (a n : Nat) : (State.persistDai a n s).dai = s.dai := by
  unfold State.persistDai; split <;> simp
@[simp] theorem State.persistDai_lci (a n : Nat) : (State.persistDai a n s).lci = s.lci := by
  unfold State.persistDai; split <;> simp
@[simp] theorem State.persistDai_lcinfo (a n : Nat) : (State.persistDai a n s).lcinfo = s.lcinfo := by
  unfold State.persistDai; split <;> simp
@[simp] theorem State.persistDai_hwcfg (a n : Nat) : (State.persistDai a n s).hwcfg = s.hwcfg := by
  unfold State.persistDai; split <;> simp
@[simp] theorem State.persistDai_intrEnable (a n : Nat) : (State.persistDai a n s).intrEnable = s.intrEnable := by
  unfold State.persistDai; split <;> simp
@[simp] theorem State.persistDai_readEn (a n : Nat) : (State.persistDai a n s).readEn = s.readEn := by
  unfold State.persistDai; split <;> simp
@[simp] theorem State.persistDai_lcSignals (a n : Nat) : (State.persistDai a n s).lcSignals = s.lcSignals := by
  unfold State.persistDai; split <;> simp
@[simp] theorem State.persistDai_pool (a n : Nat) : (State.persistDai a n s).pool = s.pool := by
  unfold State.persistDai; split <;> simp
@[simp] theorem State.persistDai_pending (a n : Nat) : (State.persistDai a n s).pending = s.pending := by
  unfold State.persistDai; split <;> simp
@[simp] theorem State.persistDai_inbox (a n : Nat) : (State.persistDai a n s).inbox = s.inbox := by
  unfold State.persistDai; split <;> simp
@[simp] theorem State.persistDai_answers (a n : Nat) : (State.persistDai a n s).answers = s.answers := by
  unfold State.persistDai; split <;> simp
@[simp] theorem State.persistDai_outputs (a n : Nat) : (State.persistDai a n s).outputs = s.outputs := by
  unfold State.persistDai; split <;> simp

@[simp] theorem State.persistDai_alertLatch (a n : Nat) : (State.persistDai a n s).alertLatch = s.alertLatch := by
  unfold State.persistDai; split <;> simp [alertOf]

-- Recording in many slots touches the slots, the interrupts and the alerts.
@[simp] theorem State.recordAll_cfg (l : List Nat) (c : ErrCode) : (State.recordAll l c s).cfg = s.cfg := by
  induction l generalizing s with
  | nil => rfl
  | cons i l ih => exact (ih _).trans rfl
@[simp] theorem State.recordAll_image (l : List Nat) (c : ErrCode) : (State.recordAll l c s).image = s.image := by
  induction l generalizing s with
  | nil => rfl
  | cons i l ih => exact (ih _).trans rfl
@[simp] theorem State.recordAll_backing (l : List Nat) (c : ErrCode) : (State.recordAll l c s).backing = s.backing := by
  induction l generalizing s with
  | nil => rfl
  | cons i l ih => exact (ih _).trans rfl
@[simp] theorem State.recordAll_parts (l : List Nat) (c : ErrCode) : (State.recordAll l c s).parts = s.parts := by
  induction l generalizing s with
  | nil => rfl
  | cons i l ih => exact (ih _).trans rfl
@[simp] theorem State.recordAll_dai (l : List Nat) (c : ErrCode) : (State.recordAll l c s).dai = s.dai := by
  induction l generalizing s with
  | nil => rfl
  | cons i l ih => exact (ih _).trans rfl
@[simp] theorem State.recordAll_lci (l : List Nat) (c : ErrCode) : (State.recordAll l c s).lci = s.lci := by
  induction l generalizing s with
  | nil => rfl
  | cons i l ih => exact (ih _).trans rfl
@[simp] theorem State.recordAll_lcinfo (l : List Nat) (c : ErrCode) : (State.recordAll l c s).lcinfo = s.lcinfo := by
  induction l generalizing s with
  | nil => rfl
  | cons i l ih => exact (ih _).trans rfl
@[simp] theorem State.recordAll_hwcfg (l : List Nat) (c : ErrCode) : (State.recordAll l c s).hwcfg = s.hwcfg := by
  induction l generalizing s with
  | nil => rfl
  | cons i l ih => exact (ih _).trans rfl
@[simp] theorem State.recordAll_intrEnable (l : List Nat) (c : ErrCode) : (State.recordAll l c s).intrEnable = s.intrEnable := by
  induction l generalizing s with
  | nil => rfl
  | cons i l ih => exact (ih _).trans rfl
@[simp] theorem State.recordAll_readEn (l : List Nat) (c : ErrCode) : (State.recordAll l c s).readEn = s.readEn := by
  induction l generalizing s with
  | nil => rfl
  | cons i l ih => exact (ih _).trans rfl
@[simp] theorem State.recordAll_lcSignals (l : List Nat) (c : ErrCode) : (State.recordAll l c s).lcSignals = s.lcSignals := by
  induction l generalizing s with
  | nil => rfl
  | cons i l ih => exact (ih _).trans rfl
@[simp] theorem State.recordAll_pool (l : List Nat) (c : ErrCode) : (State.recordAll l c s).pool = s.pool := by
  induction l generalizing s with
  | nil => rfl
  | cons i l ih => exact (ih _).trans rfl
@[simp] theorem State.recordAll_pending (l : List Nat) (c : ErrCode) : (State.recordAll l c s).pending = s.pending := by
  induction l generalizing s with
  | nil => rfl
  | cons i l ih => exact (ih _).trans rfl
@[simp] theorem State.recordAll_inbox (l : List Nat) (c : ErrCode) : (State.recordAll l c s).inbox = s.inbox := by
  induction l generalizing s with
  | nil => rfl
  | cons i l ih => exact (ih _).trans rfl
@[simp] theorem State.recordAll_answers (l : List Nat) (c : ErrCode) : (State.recordAll l c s).answers = s.answers := by
  induction l generalizing s with
  | nil => rfl
  | cons i l ih => exact (ih _).trans rfl
@[simp] theorem State.recordAll_outputs (l : List Nat) (c : ErrCode) : (State.recordAll l c s).outputs = s.outputs := by
  induction l generalizing s with
  | nil => rfl
  | cons i l ih => exact (ih _).trans rfl
@[simp] theorem State.recordAll_draws (l : List Nat) (c : ErrCode) : (State.recordAll l c s).draws = s.draws := by
  induction l generalizing s with
  | nil => rfl
  | cons i l ih => exact (ih _).trans rfl

-- The seed locks are partition state.
@[simp] theorem State.updateSeedLocks_cfg : (State.updateSeedLocks s).cfg = s.cfg := by
  unfold State.updateSeedLocks
  generalize s.cfg.seedParts = l
  induction l generalizing s with
  | nil => rfl
  | cons i l ih => exact (ih _).trans rfl
@[simp] theorem State.updateSeedLocks_image : (State.updateSeedLocks s).image = s.image := by
  unfold State.updateSeedLocks
  generalize s.cfg.seedParts = l
  induction l generalizing s with
  | nil => rfl
  | cons i l ih => exact (ih _).trans rfl
@[simp] theorem State.updateSeedLocks_backing : (State.updateSeedLocks s).backing = s.backing := by
  unfold State.updateSeedLocks
  generalize s.cfg.seedParts = l
  induction l generalizing s with
  | nil => rfl
  | cons i l ih => exact (ih _).trans rfl
@[simp] theorem State.updateSeedLocks_dai : (State.updateSeedLocks s).dai = s.dai := by
  unfold State.updateSeedLocks
  generalize s.cfg.seedParts = l
  induction l generalizing s with
  | nil => rfl
  | cons i l ih => exact (ih _).trans rfl
@[simp] theorem State.updateSeedLocks_lci : (State.updateSeedLocks s).lci = s.lci := by
  unfold State.updateSeedLocks
  generalize s.cfg.seedParts = l
  induction l generalizing s with
  | nil => rfl
  | cons i l ih => exact (ih _).trans rfl
@[simp] theorem State.updateSeedLocks_lcinfo : (State.updateSeedLocks s).lcinfo = s.lcinfo := by
  unfold State.updateSeedLocks
  generalize s.cfg.seedParts = l
  induction l generalizing s with
  | nil => rfl
  | cons i l ih => exact (ih _).trans rfl
@[simp] theorem State.updateSeedLocks_hwcfg : (State.updateSeedLocks s).hwcfg = s.hwcfg := by
  unfold State.updateSeedLocks
  generalize s.cfg.seedParts = l
  induction l generalizing s with
  | nil => rfl
  | cons i l ih => exact (ih _).trans rfl
@[simp] theorem State.updateSeedLocks_intrState : (State.updateSeedLocks s).intrState = s.intrState := by
  unfold State.updateSeedLocks
  generalize s.cfg.seedParts = l
  induction l generalizing s with
  | nil => rfl
  | cons i l ih => exact (ih _).trans rfl
@[simp] theorem State.updateSeedLocks_intrEnable : (State.updateSeedLocks s).intrEnable = s.intrEnable := by
  unfold State.updateSeedLocks
  generalize s.cfg.seedParts = l
  induction l generalizing s with
  | nil => rfl
  | cons i l ih => exact (ih _).trans rfl
@[simp] theorem State.updateSeedLocks_alertLatch : (State.updateSeedLocks s).alertLatch = s.alertLatch := by
  unfold State.updateSeedLocks
  generalize s.cfg.seedParts = l
  induction l generalizing s with
  | nil => rfl
  | cons i l ih => exact (ih _).trans rfl
@[simp] theorem State.updateSeedLocks_err : (State.updateSeedLocks s).err = s.err := by
  unfold State.updateSeedLocks
  generalize s.cfg.seedParts = l
  induction l generalizing s with
  | nil => rfl
  | cons i l ih => exact (ih _).trans rfl
@[simp] theorem State.updateSeedLocks_readEn : (State.updateSeedLocks s).readEn = s.readEn := by
  unfold State.updateSeedLocks
  generalize s.cfg.seedParts = l
  induction l generalizing s with
  | nil => rfl
  | cons i l ih => exact (ih _).trans rfl
@[simp] theorem State.updateSeedLocks_lcSignals : (State.updateSeedLocks s).lcSignals = s.lcSignals := by
  unfold State.updateSeedLocks
  generalize s.cfg.seedParts = l
  induction l generalizing s with
  | nil => rfl
  | cons i l ih => exact (ih _).trans rfl
@[simp] theorem State.updateSeedLocks_pool : (State.updateSeedLocks s).pool = s.pool := by
  unfold State.updateSeedLocks
  generalize s.cfg.seedParts = l
  induction l generalizing s with
  | nil => rfl
  | cons i l ih => exact (ih _).trans rfl
@[simp] theorem State.updateSeedLocks_pending : (State.updateSeedLocks s).pending = s.pending := by
  unfold State.updateSeedLocks
  generalize s.cfg.seedParts = l
  induction l generalizing s with
  | nil => rfl
  | cons i l ih => exact (ih _).trans rfl
@[simp] theorem State.updateSeedLocks_inbox : (State.updateSeedLocks s).inbox = s.inbox := by
  unfold State.updateSeedLocks
  generalize s.cfg.seedParts = l
  induction l generalizing s with
  | nil => rfl
  | cons i l ih => exact (ih _).trans rfl
@[simp] theorem State.updateSeedLocks_answers : (State.updateSeedLocks s).answers = s.answers := by
  unfold State.updateSeedLocks
  generalize s.cfg.seedParts = l
  induction l generalizing s with
  | nil => rfl
  | cons i l ih => exact (ih _).trans rfl
@[simp] theorem State.updateSeedLocks_outputs : (State.updateSeedLocks s).outputs = s.outputs := by
  unfold State.updateSeedLocks
  generalize s.cfg.seedParts = l
  induction l generalizing s with
  | nil => rfl
  | cons i l ih => exact (ih _).trans rfl
@[simp] theorem State.updateSeedLocks_draws : (State.updateSeedLocks s).draws = s.draws := by
  unfold State.updateSeedLocks
  generalize s.cfg.seedParts = l
  induction l generalizing s with
  | nil => rfl
  | cons i l ih => exact (ih _).trans rfl

-- Escalation touches the FSMs, the slots, the interrupts and the alerts.
@[simp] theorem State.escalate_cfg : (State.escalate s).cfg = s.cfg := by
  simp [State.escalate]
@[simp] theorem State.escalate_image : (State.escalate s).image = s.image := by
  simp [State.escalate]
@[simp] theorem State.escalate_backing : (State.escalate s).backing = s.backing := by
  simp [State.escalate]
@[simp] theorem State.escalate_lcinfo : (State.escalate s).lcinfo = s.lcinfo := by
  simp [State.escalate]
@[simp] theorem State.escalate_hwcfg : (State.escalate s).hwcfg = s.hwcfg := by
  simp [State.escalate]
@[simp] theorem State.escalate_intrEnable : (State.escalate s).intrEnable = s.intrEnable := by
  simp [State.escalate]
@[simp] theorem State.escalate_readEn : (State.escalate s).readEn = s.readEn := by
  simp [State.escalate]
@[simp] theorem State.escalate_lcSignals : (State.escalate s).lcSignals = s.lcSignals := by
  simp [State.escalate]
@[simp] theorem State.escalate_pool : (State.escalate s).pool = s.pool := by
  simp [State.escalate]
@[simp] theorem State.escalate_pending : (State.escalate s).pending = s.pending := by
  simp [State.escalate]
@[simp] theorem State.escalate_inbox : (State.escalate s).inbox = s.inbox := by
  simp [State.escalate]
@[simp] theorem State.escalate_answers : (State.escalate s).answers = s.answers := by
  simp [State.escalate]
@[simp] theorem State.escalate_outputs : (State.escalate s).outputs = s.outputs := by
  simp [State.escalate]
@[simp] theorem State.escalate_draws : (State.escalate s).draws = s.draws := by
  simp [State.escalate]
@[simp] theorem State.escalate_dai : (State.escalate s).dai = { s.dai with fsm := .error } := by
  simp [State.escalate]
@[simp] theorem State.escalate_lci : (State.escalate s).lci = { s.lci with fsm := .error } := by
  simp [State.escalate]
@[simp] theorem State.escalate_parts : (State.escalate s).parts = s.parts.map fun q => { q with fsm := .error } := by
  simp [State.escalate]

/-- Every operation ends in a next state with its outputs updated. -/
theorem complete_eq (t : State) : complete s t = .next (State.updateOutputs s t) := rfl

/-- Outputs do not change where neither the interrupt state nor the enables nor the latches do. -/
theorem outputChanges_same (t : State) (h1 : t.intrState = s.intrState) (h2 : t.intrEnable = s.intrEnable)
    (h3 : t.alertLatch = s.alertLatch) : outputChanges s t = [] := by
  simp [outputChanges, irqEvents, alertEvents, State.irqLevel, h1, h2, h3]

/-- An operation that leaves interrupts and alerts alone emits nothing. -/
theorem complete_same (t : State) (h1 : t.intrState = s.intrState) (h2 : t.intrEnable = s.intrEnable)
    (h3 : t.alertLatch = s.alertLatch) : complete s t = .next t := by
  simp [complete, State.updateOutputs, outputChanges_same s t h1 h2 h3]

/-- A slot after a plain write. -/
theorem State.errAt_setErr (i j : Nat) (c : ErrCode) :
    (s.setErr i c).errAt j = if i = j ∧ j < s.err.length then c else s.errAt j := by
  simp only [State.errAt, State.setErr_err, List.getD_eq_getElem?_getD, List.getElem?_set]
  by_cases h : i = j <;> by_cases h2 : j < s.err.length <;> simp [h, h2]

/-- A slot after `record`. -/
theorem State.errAt_record (i j : Nat) (c : ErrCode) :
    (s.record i c).errAt j = if i = j ∧ j < s.err.length then c else s.errAt j := by
  simp only [State.errAt, State.record_err, List.getD_eq_getElem?_getD, List.getElem?_set]
  by_cases h : i = j <;> by_cases h2 : j < s.err.length <;> simp [h, h2]

/-- A partition after an update. -/
theorem State.part_updPart (p q : Nat) (f : Part → Part) :
    (s.updPart p f).part q = if p = q ∧ q < s.parts.length then f (s.part q) else s.part q := by
  simp only [State.part, State.updPart_parts, List.getD_eq_getElem?_getD, List.getElem?_modify]
  by_cases h : p = q <;> by_cases h2 : q < s.parts.length <;> simp [h, h2]

@[simp] theorem State.updPart_length (p : Nat) (f : Part → Part) : (s.updPart p f).parts.length = s.parts.length := by
  simp

/-- The slots after recording in a list of slots. -/
theorem State.errAt_recordAll (l : List Nat) (c : ErrCode) (j : Nat) :
    (State.recordAll l c s).errAt j = if j ∈ l ∧ j < s.err.length then c else s.errAt j := by
  induction l generalizing s with
  | nil => simp [State.recordAll]
  | cons i l ih =>
    have h := ih (s.record i c)
    simp only [State.recordAll, List.foldl_cons] at h ⊢
    rw [h, State.errAt_record]
    by_cases h1 : i = j <;> by_cases h2 : j ∈ l <;> by_cases h3 : j < s.err.length <;>
      (simp [h1, h2, h3, eq_comm]; try tauto)

theorem State.recordAll_length (l : List Nat) (c : ErrCode) :
    (State.recordAll l c s).err.length = s.err.length := by
  induction l generalizing s with
  | nil => rfl
  | cons i l ih => exact (ih (s.record i c)).trans (by simp)

/-- Recording in at least one slot raises its interrupt and its alert once. -/
theorem State.recordAll_flags (i : Nat) (l : List Nat) (c : ErrCode) :
    (State.recordAll (i :: l) c s).intrState = s.intrState ||| interruptOf c ∧
      (State.recordAll (i :: l) c s).alertLatch = s.alertLatch ||| alertOf c := by
  induction l generalizing s i with
  | nil => exact ⟨rfl, rfl⟩
  | cons j l ih =>
    have h := ih (s.record i c) j
    simp only [State.recordAll, List.foldl_cons] at h ⊢
    refine ⟨h.1.trans ?_, h.2.trans ?_⟩
    · simp only [State.record_intrState, BitVec.or_assoc, BitVec.or_self]
    · simp only [State.record_alertLatch, BitVec.or_assoc, BitVec.or_self]

/-- What the pool owes after a refill: requested exactly when it was, or when it has room. -/
theorem State.refill_requested :
    s.refill.pool = { s.pool with requested := s.pool.requested || decide (s.pool.words.length < s.cfg.entropyCap) } := by
  unfold State.refill
  split
  · rename_i h; simp [h.1]
  · rename_i h
    cases hp : s.pool with
    | mk w r => cases r <;> simp_all

end Sys2Proof.Machine
end

