-- ==== Sys2Proof/Laws/Exec.lean ====
section
/-! SUPPORT. What an operation can do, said once: its state before the outputs are updated, and the conditions under
which it answers a next state. -/

namespace Sys2Proof.Machine

/-- What LCPROG leaves before its outputs are updated. -/
def lcprogAfter (st cnt : Nat) (cb : CallbackId) (s : State) : State :=
  match s.lci.fsm with
  | .reset => s.answer (.lcprog false)
  | .write => s.answer (.lcprog false)
  | .writeWait => s.answer (.lcprog false)
  | .error => (s.schedule (.lciFail cb)).answer (.lcprog true)
  | .idle => (s.lciStart st cnt cb).answer (.lcprog true)

/-- What GETKEY leaves before its outputs are updated. -/
def keyAfter (k : Nat) (s : State) : State :=
  match s.cfg.keyTypes[k]? with
  | some kt => getKey k kt s
  | none => s

/-- The state an operation leaves before its outputs are updated. -/
def after (s : State) : Instr → State
  | .daiRd _ => daiGate daiRead s
  | .daiWr _ => daiGate daiWrite s
  | .daiDigest _ => daiGate daiDigest s
  | .daiNone _ => s
  | .rdIntrState => s.answer (.data (s.readValue .intrState))
  | .wrIntrState v => { s with intrState := s.intrState &&& ~~~(v.extractLsb' 0 2) }
  | .rdIntrEnable => s.answer (.data (s.readValue .intrEnable))
  | .wrIntrEnable v => { s with intrEnable := v.extractLsb' 0 2 }
  | .rdIntrTest => s.answer (.data (s.readValue .intrTest))
  | .wrIntrTest v => { s with intrState := s.intrState ||| v.extractLsb' 0 2 }
  | .rdAlertTest => s.answer (.data (s.readValue .alertTest))
  | .wrAlertTest v => { s with alertLatch := s.alertLatch ||| v.extractLsb' 0 2 }
  | .rdStatus => s.answer (.data (s.readValue .status))
  | .wrStatus _ => s
  | .rdErrCode k => s.answer (.data (s.readValue (.errCode k)))
  | .wrErrCode _ _ => s
  | .rdDaiRegwen => s.answer (.data (s.readValue .daiRegwen))
  | .wrDaiRegwen v => if v.getLsbD 0 then s else s.mapDai fun d => { d with regwenSw := false }
  | .rdDaiCmd => s.answer (.data (s.readValue .daiCmd))
  | .wrDaiCmd v => daiGate (daiCommand v) s
  | .rdDaiAddress => s.answer (.data (s.readValue .daiAddress))
  | .wrDaiAddress v => if s.regwen then s.mapDai fun d => { d with address := v &&& s.cfg.addrMask } else s
  | .rdDaiWdata0 => s.answer (.data (s.readValue .daiWdata0))
  | .wrDaiWdata0 v => if s.regwen then s.mapDai fun d => { d with wdata0 := v } else s
  | .rdDaiWdata1 => s.answer (.data (s.readValue .daiWdata1))
  | .wrDaiWdata1 v => if s.regwen then s.mapDai fun d => { d with wdata1 := v } else s
  | .rdDaiRdata0 => s.answer (.data (s.readValue .daiRdata0))
  | .wrDaiRdata0 _ => s
  | .rdDaiRdata1 => s.answer (.data (s.readValue .daiRdata1))
  | .wrDaiRdata1 _ => s
  | .rdCheckTriggerRegwen => s.answer (.data (s.readValue .checkTriggerRegwen))
  | .wrCheckTriggerRegwen _ => s
  | .rdCheckTrigger => s.answer (.data (s.readValue .checkTrigger))
  | .wrCheckTrigger _ => s
  | .rdCheckRegwen => s.answer (.data (s.readValue .checkRegwen))
  | .wrCheckRegwen _ => s
  | .rdCheckTimeout => s.answer (.data (s.readValue .checkTimeout))
  | .wrCheckTimeout _ => s
  | .rdReadLock p => s.answer (.data (s.readValue (.readLock p)))
  | .wrReadLock p v => if s.regwen then (if v.getLsbD 0 then s else { s with readEn := s.readEn.set p false }) else s
  | .rdDigest0 p => s.answer (.data (s.readValue (.digest0 p)))
  | .wrDigest0 _ _ => s
  | .rdDigest1 p => s.answer (.data (s.readValue (.digest1 p)))
  | .wrDigest1 _ _ => s
  | .wrd woff => windowRead woff.toNat s
  | .wwr _ _ => s.answer .busError
  | .pwrup => if s.dai.fsm = .reset then powerup s else s
  | .lcprog st cnt cb => lcprogAfter st cnt cb s
  | .lcsig n b => lcSignal n b s
  | .getlc => s.answer (.lcInfo (lcWord s.lcinfo.state) s.lcinfo.count s.lcinfo.lcValid s.lcinfo.secretValid
      s.lcinfo.testUnlock s.lcinfo.testExit s.lcinfo.rma)
  | .gethw => s.answer (.hwConfig s.hwcfg)
  | .getkey k => keyAfter k s
  | .entropy w _ => deliverEntropy w s
  | .alertack i => { s with alertLatch := s.alertLatch &&& ~~~((1#2) <<< i) }
  | .fireDaiDone => daiDone s
  | .fireLciWordDone => lciWordDone s
  | .fireLciFail cb => (s.unschedule (.lciFail cb)).emit (.lcAck cb false)
  | .reset => s.resetDevice

/-- When an operation answers a next state: its register exists, its operands are in range, its event is pending. -/
def admits (s : State) : Instr → Bool
  | .daiRd _ => true
  | .daiWr _ => true
  | .daiDigest _ => true
  | .daiNone _ => true
  | .rdIntrState => true
  | .wrIntrState _ => true
  | .rdIntrEnable => true
  | .wrIntrEnable _ => true
  | .rdIntrTest => true
  | .wrIntrTest _ => true
  | .rdAlertTest => true
  | .wrAlertTest _ => true
  | .rdStatus => true
  | .wrStatus _ => true
  | .rdErrCode k => s.cfg.hasReg (.errCode k)
  | .wrErrCode k _ => s.cfg.hasReg (.errCode k)
  | .rdDaiRegwen => true
  | .wrDaiRegwen _ => true
  | .rdDaiCmd => true
  | .wrDaiCmd _ => true
  | .rdDaiAddress => true
  | .wrDaiAddress _ => true
  | .rdDaiWdata0 => true
  | .wrDaiWdata0 _ => true
  | .rdDaiWdata1 => true
  | .wrDaiWdata1 _ => true
  | .rdDaiRdata0 => true
  | .wrDaiRdata0 _ => true
  | .rdDaiRdata1 => true
  | .wrDaiRdata1 _ => true
  | .rdCheckTriggerRegwen => true
  | .wrCheckTriggerRegwen _ => true
  | .rdCheckTrigger => true
  | .wrCheckTrigger _ => true
  | .rdCheckRegwen => true
  | .wrCheckRegwen _ => true
  | .rdCheckTimeout => true
  | .wrCheckTimeout _ => true
  | .rdReadLock p => s.cfg.hasReg (.readLock p)
  | .wrReadLock p _ => s.cfg.hasReg (.readLock p)
  | .rdDigest0 p => s.cfg.hasReg (.digest0 p)
  | .wrDigest0 p _ => s.cfg.hasReg (.digest0 p)
  | .rdDigest1 p => s.cfg.hasReg (.digest1 p)
  | .wrDigest1 p _ => s.cfg.hasReg (.digest1 p)
  | .wrd woff => decide (woff.toNat % 4 = 0 ∧ woff.toNat < s.cfg.swWindowSize)
  | .wwr woff _ => decide (woff.toNat < s.cfg.swWindowSize)
  | .pwrup => true
  | .lcprog st cnt _ => decide (s.cfg.lcProgrammable st = true ∧ cnt ≤ s.cfg.lcCntMax)
  | .lcsig _ _ => true
  | .getlc => true
  | .gethw => true
  | .getkey k => (s.cfg.keyTypes[k]?).isSome
  | .entropy _ _ => true
  | .alertack i => decide (i < 2)
  | .fireDaiDone => decide (Event.daiDone ∈ s.pending)
  | .fireLciWordDone => decide (Event.lciWordDone ∈ s.pending)
  | .fireLciFail cb => decide (Event.lciFail cb ∈ s.pending)
  | .reset => true

/-- Where an operation is admitted it answers the next state of `after`, with its outputs updated. -/
theorem exec_admitted : ∀ (i : Instr) (s : State), admits s i = true →
    exec i s = .next (State.updateOutputs s (after s i))
  | .daiRd _, _, _ => rfl
  | .daiWr _, _, _ => rfl
  | .daiDigest _, _, _ => rfl
  | .daiNone _, _, _ => rfl
  | .rdIntrState, _, _ => rfl
  | .wrIntrState _, _, _ => rfl
  | .rdIntrEnable, _, _ => rfl
  | .wrIntrEnable _, _, _ => rfl
  | .rdIntrTest, _, _ => rfl
  | .wrIntrTest _, _, _ => rfl
  | .rdAlertTest, _, _ => rfl
  | .wrAlertTest _, _, _ => rfl
  | .rdStatus, _, _ => rfl
  | .wrStatus _, _, _ => rfl
  | .rdErrCode k, s, h => if_pos (h)
  | .wrErrCode k v, s, h => if_pos (h)
  | .rdDaiRegwen, _, _ => rfl
  | .wrDaiRegwen _, _, _ => rfl
  | .rdDaiCmd, _, _ => rfl
  | .wrDaiCmd _, _, _ => rfl
  | .rdDaiAddress, _, _ => rfl
  | .wrDaiAddress _, _, _ => rfl
  | .rdDaiWdata0, _, _ => rfl
  | .wrDaiWdata0 _, _, _ => rfl
  | .rdDaiWdata1, _, _ => rfl
  | .wrDaiWdata1 _, _, _ => rfl
  | .rdDaiRdata0, _, _ => rfl
  | .wrDaiRdata0 _, _, _ => rfl
  | .rdDaiRdata1, _, _ => rfl
  | .wrDaiRdata1 _, _, _ => rfl
  | .rdCheckTriggerRegwen, _, _ => rfl
  | .wrCheckTriggerRegwen _, _, _ => rfl
  | .rdCheckTrigger, _, _ => rfl
  | .wrCheckTrigger _, _, _ => rfl
  | .rdCheckRegwen, _, _ => rfl
  | .wrCheckRegwen _, _, _ => rfl
  | .rdCheckTimeout, _, _ => rfl
  | .wrCheckTimeout _, _, _ => rfl
  | .rdReadLock p, s, h => if_pos (h)
  | .wrReadLock p v, s, h => if_pos (h)
  | .rdDigest0 p, s, h => if_pos (h)
  | .wrDigest0 p v, s, h => if_pos (h)
  | .rdDigest1 p, s, h => if_pos (h)
  | .wrDigest1 p v, s, h => if_pos (h)
  | .wrd woff, s, h => if_pos (of_decide_eq_true h)
  | .wwr woff v, s, h => if_pos (of_decide_eq_true h)
  | .pwrup, s, _ => by
    simp only [exec, execPwrup, after]
    split <;> rfl
  | .lcprog st cnt cb, s, h => by
    have h' := of_decide_eq_true h
    simp only [exec, execLcprog, if_pos h', after, lcprogAfter]
    cases s.lci.fsm <;> rfl
  | .lcsig _ _, _, _ => rfl
  | .getlc, _, _ => rfl
  | .gethw, _, _ => rfl
  | .getkey k, s, h => by
    simp only [exec, execGetkey, after, keyAfter]
    cases hk : s.cfg.keyTypes[k]? with
    | some kt => rfl
    | none => rw [admits, hk] at h; cases h
  | .entropy _ _, _, _ => rfl
  | .alertack i, s, h => if_pos (of_decide_eq_true h)
  | .fireDaiDone, s, h => if_pos (of_decide_eq_true h)
  | .fireLciWordDone, s, h => if_pos (of_decide_eq_true h)
  | .fireLciFail cb, s, h => if_pos (of_decide_eq_true h)
  | .reset, _, _ => rfl

/-- Where an operation is not admitted it is refused. -/
theorem exec_refused : ∀ (i : Instr) (s : State), admits s i = false → ∃ r, exec i s = .refused r
  | .daiRd _, _, h => Bool.noConfusion h
  | .daiWr _, _, h => Bool.noConfusion h
  | .daiDigest _, _, h => Bool.noConfusion h
  | .daiNone _, _, h => Bool.noConfusion h
  | .rdIntrState, _, h => Bool.noConfusion h
  | .wrIntrState _, _, h => Bool.noConfusion h
  | .rdIntrEnable, _, h => Bool.noConfusion h
  | .wrIntrEnable _, _, h => Bool.noConfusion h
  | .rdIntrTest, _, h => Bool.noConfusion h
  | .wrIntrTest _, _, h => Bool.noConfusion h
  | .rdAlertTest, _, h => Bool.noConfusion h
  | .wrAlertTest _, _, h => Bool.noConfusion h
  | .rdStatus, _, h => Bool.noConfusion h
  | .wrStatus _, _, h => Bool.noConfusion h
  | .rdErrCode k, s, h => ⟨_, if_neg ((Bool.eq_false_iff.1 h))⟩
  | .wrErrCode k v, s, h => ⟨_, if_neg ((Bool.eq_false_iff.1 h))⟩
  | .rdDaiRegwen, _, h => Bool.noConfusion h
  | .wrDaiRegwen _, _, h => Bool.noConfusion h
  | .rdDaiCmd, _, h => Bool.noConfusion h
  | .wrDaiCmd _, _, h => Bool.noConfusion h
  | .rdDaiAddress, _, h => Bool.noConfusion h
  | .wrDaiAddress _, _, h => Bool.noConfusion h
  | .rdDaiWdata0, _, h => Bool.noConfusion h
  | .wrDaiWdata0 _, _, h => Bool.noConfusion h
  | .rdDaiWdata1, _, h => Bool.noConfusion h
  | .wrDaiWdata1 _, _, h => Bool.noConfusion h
  | .rdDaiRdata0, _, h => Bool.noConfusion h
  | .wrDaiRdata0 _, _, h => Bool.noConfusion h
  | .rdDaiRdata1, _, h => Bool.noConfusion h
  | .wrDaiRdata1 _, _, h => Bool.noConfusion h
  | .rdCheckTriggerRegwen, _, h => Bool.noConfusion h
  | .wrCheckTriggerRegwen _, _, h => Bool.noConfusion h
  | .rdCheckTrigger, _, h => Bool.noConfusion h
  | .wrCheckTrigger _, _, h => Bool.noConfusion h
  | .rdCheckRegwen, _, h => Bool.noConfusion h
  | .wrCheckRegwen _, _, h => Bool.noConfusion h
  | .rdCheckTimeout, _, h => Bool.noConfusion h
  | .wrCheckTimeout _, _, h => Bool.noConfusion h
  | .rdReadLock p, s, h => ⟨_, if_neg ((Bool.eq_false_iff.1 h))⟩
  | .wrReadLock p v, s, h => ⟨_, if_neg ((Bool.eq_false_iff.1 h))⟩
  | .rdDigest0 p, s, h => ⟨_, if_neg ((Bool.eq_false_iff.1 h))⟩
  | .wrDigest0 p v, s, h => ⟨_, if_neg ((Bool.eq_false_iff.1 h))⟩
  | .rdDigest1 p, s, h => ⟨_, if_neg ((Bool.eq_false_iff.1 h))⟩
  | .wrDigest1 p v, s, h => ⟨_, if_neg ((Bool.eq_false_iff.1 h))⟩
  | .wrd woff, s, h => ⟨_, if_neg (of_decide_eq_false h)⟩
  | .wwr woff v, s, h => ⟨_, if_neg (of_decide_eq_false h)⟩
  | .pwrup, _, h => Bool.noConfusion h
  | .lcprog st cnt cb, s, h => ⟨_, if_neg (of_decide_eq_false h)⟩
  | .lcsig _ _, _, h => Bool.noConfusion h
  | .getlc, _, h => Bool.noConfusion h
  | .gethw, _, h => Bool.noConfusion h
  | .getkey k, s, h => by
    simp only [exec, execGetkey]
    cases hk : s.cfg.keyTypes[k]? with
    | some kt => rw [admits, hk] at h; cases h
    | none => exact ⟨_, rfl⟩
  | .entropy _ _, _, h => Bool.noConfusion h
  | .alertack i, s, h => ⟨_, if_neg (of_decide_eq_false h)⟩
  | .fireDaiDone, s, h => ⟨_, if_neg (of_decide_eq_false h)⟩
  | .fireLciWordDone, s, h => ⟨_, if_neg (of_decide_eq_false h)⟩
  | .fireLciFail cb, s, h => ⟨_, if_neg (of_decide_eq_false h)⟩
  | .reset, _, h => Bool.noConfusion h

/-- What a next state of an operation is. -/
theorem exec_next (i : Instr) (s t : State) (h : exec i s = .next t) :
    admits s i = true ∧ t = State.updateOutputs s (after s i) := by
  cases ha : admits s i with
  | true =>
    rw [exec_admitted i s ha] at h
    exact ⟨rfl, (Host.Outcome.next.inj h).symm⟩
  | false =>
    obtain ⟨r, hr⟩ := exec_refused i s ha
    rw [hr] at h
    exact absurd h (by simp)

/-- What a next state of a step is: nothing was presented, or the next operation ran. -/
theorem step_next (s t : State) (h : step s = .next t) :
    s.cfg.partTableOk = true ∧
      ((s.inbox = [] ∧ t = s) ∨ ∃ i rest, decode s.cfg s.inbox = .ok (i, rest) ∧ exec i { s with inbox := rest } = .next t) := by
  unfold step at h
  split at h
  · rename_i hp
    refine ⟨hp, ?_⟩
    unfold fetch at h
    split at h
    · cases h
    · rename_i hf
      split at hf
      · rename_i hi
        exact .inl ⟨hi, (Host.Outcome.next.inj h).symm⟩
      · split at hf <;> simp at hf
    · rename_i i s' hf
      split at hf
      · simp at hf
      · split at hf
        · simp at hf
        · rename_i j rest hd
          simp only [Except.ok.injEq, Option.some.injEq, Prod.mk.injEq] at hf
          obtain ⟨rfl, rfl⟩ := hf
          exact .inr ⟨_, rest, hd, h⟩
  · cases h

/-- What an operation reports of its lines and latches are interrupt and alert events. -/
theorem outputChanges_plain (s t : State) : ∀ o ∈ outputChanges s t, o.plain = false := by
  intro o ho
  simp only [outputChanges, irqEvents, alertEvents, List.mem_append] at ho
  rcases ho with ((ho | ho) | ho) | ho <;> split at ho <;> simp at ho <;> subst ho <;> rfl

end Sys2Proof.Machine
end

