-- ==== Sys2Proof/Laws/Engines.lean ====
section
/-! SUPPORT. The components each engine operation leaves alone, and the forms its result can take. -/

namespace Sys2Proof.Machine

variable (s : State)

-- A stored program result.
@[simp] theorem State.daiStore_cfg (r : Image × Bool) (a n : Nat) : (State.daiStore r a n s).cfg = s.cfg := by
  unfold State.daiStore; dsimp only; split <;> simp
@[simp] theorem State.daiStore_parts (r : Image × Bool) (a n : Nat) : (State.daiStore r a n s).parts = s.parts := by
  unfold State.daiStore; dsimp only; split <;> simp
@[simp] theorem State.daiStore_dai (r : Image × Bool) (a n : Nat) : (State.daiStore r a n s).dai = s.dai := by
  unfold State.daiStore; dsimp only; split <;> simp
@[simp] theorem State.daiStore_lci (r : Image × Bool) (a n : Nat) : (State.daiStore r a n s).lci = s.lci := by
  unfold State.daiStore; dsimp only; split <;> simp
@[simp] theorem State.daiStore_lcinfo (r : Image × Bool) (a n : Nat) : (State.daiStore r a n s).lcinfo = s.lcinfo := by
  unfold State.daiStore; dsimp only; split <;> simp
@[simp] theorem State.daiStore_hwcfg (r : Image × Bool) (a n : Nat) : (State.daiStore r a n s).hwcfg = s.hwcfg := by
  unfold State.daiStore; dsimp only; split <;> simp
@[simp] theorem State.daiStore_intrEnable (r : Image × Bool) (a n : Nat) : (State.daiStore r a n s).intrEnable = s.intrEnable := by
  unfold State.daiStore; dsimp only; split <;> simp
@[simp] theorem State.daiStore_alertLatch (r : Image × Bool) (a n : Nat) : (State.daiStore r a n s).alertLatch = s.alertLatch := by
  unfold State.daiStore; dsimp only; split <;> simp [alertOf]
@[simp] theorem State.daiStore_readEn (r : Image × Bool) (a n : Nat) : (State.daiStore r a n s).readEn = s.readEn := by
  unfold State.daiStore; dsimp only; split <;> simp
@[simp] theorem State.daiStore_lcSignals (r : Image × Bool) (a n : Nat) : (State.daiStore r a n s).lcSignals = s.lcSignals := by
  unfold State.daiStore; dsimp only; split <;> simp
@[simp] theorem State.daiStore_pool (r : Image × Bool) (a n : Nat) : (State.daiStore r a n s).pool = s.pool := by
  unfold State.daiStore; dsimp only; split <;> simp
@[simp] theorem State.daiStore_pending (r : Image × Bool) (a n : Nat) : (State.daiStore r a n s).pending = s.pending := by
  unfold State.daiStore; dsimp only; split <;> simp
@[simp] theorem State.daiStore_inbox (r : Image × Bool) (a n : Nat) : (State.daiStore r a n s).inbox = s.inbox := by
  unfold State.daiStore; dsimp only; split <;> simp
@[simp] theorem State.daiStore_answers (r : Image × Bool) (a n : Nat) : (State.daiStore r a n s).answers = s.answers := by
  unfold State.daiStore; dsimp only; split <;> simp
@[simp] theorem State.daiStore_outputs (r : Image × Bool) (a n : Nat) : (State.daiStore r a n s).outputs = s.outputs := by
  unfold State.daiStore; dsimp only; split <;> simp

-- A published read.
@[simp] theorem State.daiPublish_cfg (p : Nat) (v : DWord) (sev : Severity) : (State.daiPublish p v sev s).cfg = s.cfg := by
  unfold State.daiPublish; dsimp only; (repeat' split) <;> simp
@[simp] theorem State.daiPublish_image (p : Nat) (v : DWord) (sev : Severity) : (State.daiPublish p v sev s).image = s.image := by
  unfold State.daiPublish; dsimp only; (repeat' split) <;> simp
@[simp] theorem State.daiPublish_backing (p : Nat) (v : DWord) (sev : Severity) : (State.daiPublish p v sev s).backing = s.backing := by
  unfold State.daiPublish; dsimp only; (repeat' split) <;> simp
@[simp] theorem State.daiPublish_parts (p : Nat) (v : DWord) (sev : Severity) : (State.daiPublish p v sev s).parts = s.parts := by
  unfold State.daiPublish; dsimp only; (repeat' split) <;> simp
@[simp] theorem State.daiPublish_lci (p : Nat) (v : DWord) (sev : Severity) : (State.daiPublish p v sev s).lci = s.lci := by
  unfold State.daiPublish; dsimp only; (repeat' split) <;> simp
@[simp] theorem State.daiPublish_lcinfo (p : Nat) (v : DWord) (sev : Severity) : (State.daiPublish p v sev s).lcinfo = s.lcinfo := by
  unfold State.daiPublish; dsimp only; (repeat' split) <;> simp
@[simp] theorem State.daiPublish_hwcfg (p : Nat) (v : DWord) (sev : Severity) : (State.daiPublish p v sev s).hwcfg = s.hwcfg := by
  unfold State.daiPublish; dsimp only; (repeat' split) <;> simp
@[simp] theorem State.daiPublish_intrEnable (p : Nat) (v : DWord) (sev : Severity) : (State.daiPublish p v sev s).intrEnable = s.intrEnable := by
  unfold State.daiPublish; dsimp only; (repeat' split) <;> simp
@[simp] theorem State.daiPublish_alertLatch (p : Nat) (v : DWord) (sev : Severity) : (State.daiPublish p v sev s).alertLatch = s.alertLatch := by
  unfold State.daiPublish; dsimp only; (repeat' split) <;> simp [alertOf]
@[simp] theorem State.daiPublish_readEn (p : Nat) (v : DWord) (sev : Severity) : (State.daiPublish p v sev s).readEn = s.readEn := by
  unfold State.daiPublish; dsimp only; (repeat' split) <;> simp
@[simp] theorem State.daiPublish_lcSignals (p : Nat) (v : DWord) (sev : Severity) : (State.daiPublish p v sev s).lcSignals = s.lcSignals := by
  unfold State.daiPublish; dsimp only; (repeat' split) <;> simp
@[simp] theorem State.daiPublish_pool (p : Nat) (v : DWord) (sev : Severity) : (State.daiPublish p v sev s).pool = s.pool := by
  unfold State.daiPublish; dsimp only; (repeat' split) <;> simp
@[simp] theorem State.daiPublish_inbox (p : Nat) (v : DWord) (sev : Severity) : (State.daiPublish p v sev s).inbox = s.inbox := by
  unfold State.daiPublish; dsimp only; (repeat' split) <;> simp
@[simp] theorem State.daiPublish_answers (p : Nat) (v : DWord) (sev : Severity) : (State.daiPublish p v sev s).answers = s.answers := by
  unfold State.daiPublish; dsimp only; (repeat' split) <;> simp
@[simp] theorem State.daiPublish_outputs (p : Nat) (v : DWord) (sev : Severity) : (State.daiPublish p v sev s).outputs = s.outputs := by
  unfold State.daiPublish; dsimp only; (repeat' split) <;> simp
@[simp] theorem State.daiPublish_draws (p : Nat) (v : DWord) (sev : Severity) : (State.daiPublish p v sev s).draws = s.draws := by
  unfold State.daiPublish; dsimp only; (repeat' split) <;> simp

-- An accepted read.
@[simp] theorem daiRead_cfg : (daiRead s).cfg = s.cfg := by
  unfold daiRead; dsimp only; (repeat' split) <;> simp
@[simp] theorem daiRead_image : (daiRead s).image = s.image := by
  unfold daiRead; dsimp only; (repeat' split) <;> simp
@[simp] theorem daiRead_backing : (daiRead s).backing = s.backing := by
  unfold daiRead; dsimp only; (repeat' split) <;> simp
@[simp] theorem daiRead_parts : (daiRead s).parts = s.parts := by
  unfold daiRead; dsimp only; (repeat' split) <;> simp
@[simp] theorem daiRead_lci : (daiRead s).lci = s.lci := by
  unfold daiRead; dsimp only; (repeat' split) <;> simp
@[simp] theorem daiRead_lcinfo : (daiRead s).lcinfo = s.lcinfo := by
  unfold daiRead; dsimp only; (repeat' split) <;> simp
@[simp] theorem daiRead_hwcfg : (daiRead s).hwcfg = s.hwcfg := by
  unfold daiRead; dsimp only; (repeat' split) <;> simp
@[simp] theorem daiRead_intrEnable : (daiRead s).intrEnable = s.intrEnable := by
  unfold daiRead; dsimp only; (repeat' split) <;> simp
@[simp] theorem daiRead_readEn : (daiRead s).readEn = s.readEn := by
  unfold daiRead; dsimp only; (repeat' split) <;> simp
@[simp] theorem daiRead_lcSignals : (daiRead s).lcSignals = s.lcSignals := by
  unfold daiRead; dsimp only; (repeat' split) <;> simp
@[simp] theorem daiRead_pool : (daiRead s).pool = s.pool := by
  unfold daiRead; dsimp only; (repeat' split) <;> simp
@[simp] theorem daiRead_inbox : (daiRead s).inbox = s.inbox := by
  unfold daiRead; dsimp only; (repeat' split) <;> simp
@[simp] theorem daiRead_answers : (daiRead s).answers = s.answers := by
  unfold daiRead; dsimp only; (repeat' split) <;> simp
@[simp] theorem daiRead_outputs : (daiRead s).outputs = s.outputs := by
  unfold daiRead; dsimp only; (repeat' split) <;> simp
@[simp] theorem daiRead_draws : (daiRead s).draws = s.draws := by
  unfold daiRead; dsimp only; (repeat' split) <;> simp

-- An accepted write.
@[simp] theorem daiWrite_cfg : (daiWrite s).cfg = s.cfg := by
  unfold daiWrite; dsimp only; (repeat' split) <;> simp
@[simp] theorem daiWrite_parts : (daiWrite s).parts = s.parts := by
  unfold daiWrite; dsimp only; (repeat' split) <;> simp
@[simp] theorem daiWrite_lci : (daiWrite s).lci = s.lci := by
  unfold daiWrite; dsimp only; (repeat' split) <;> simp
@[simp] theorem daiWrite_lcinfo : (daiWrite s).lcinfo = s.lcinfo := by
  unfold daiWrite; dsimp only; (repeat' split) <;> simp
@[simp] theorem daiWrite_hwcfg : (daiWrite s).hwcfg = s.hwcfg := by
  unfold daiWrite; dsimp only; (repeat' split) <;> simp
@[simp] theorem daiWrite_intrEnable : (daiWrite s).intrEnable = s.intrEnable := by
  unfold daiWrite; dsimp only; (repeat' split) <;> simp
@[simp] theorem daiWrite_readEn : (daiWrite s).readEn = s.readEn := by
  unfold daiWrite; dsimp only; (repeat' split) <;> simp
@[simp] theorem daiWrite_lcSignals : (daiWrite s).lcSignals = s.lcSignals := by
  unfold daiWrite; dsimp only; (repeat' split) <;> simp
@[simp] theorem daiWrite_pool : (daiWrite s).pool = s.pool := by
  unfold daiWrite; dsimp only; (repeat' split) <;> simp
@[simp] theorem daiWrite_inbox : (daiWrite s).inbox = s.inbox := by
  unfold daiWrite; dsimp only; (repeat' split) <;> simp
@[simp] theorem daiWrite_answers : (daiWrite s).answers = s.answers := by
  unfold daiWrite; dsimp only; (repeat' split) <;> simp
@[simp] theorem daiWrite_outputs : (daiWrite s).outputs = s.outputs := by
  unfold daiWrite; dsimp only; (repeat' split) <;> simp

-- An accepted digest command.
@[simp] theorem daiDigest_cfg : (daiDigest s).cfg = s.cfg := by
  unfold daiDigest; dsimp only; (repeat' split) <;> simp
@[simp] theorem daiDigest_image : (daiDigest s).image = s.image := by
  unfold daiDigest; dsimp only; (repeat' split) <;> simp
@[simp] theorem daiDigest_backing : (daiDigest s).backing = s.backing := by
  unfold daiDigest; dsimp only; (repeat' split) <;> simp
@[simp] theorem daiDigest_lci : (daiDigest s).lci = s.lci := by
  unfold daiDigest; dsimp only; (repeat' split) <;> simp
@[simp] theorem daiDigest_lcinfo : (daiDigest s).lcinfo = s.lcinfo := by
  unfold daiDigest; dsimp only; (repeat' split) <;> simp
@[simp] theorem daiDigest_hwcfg : (daiDigest s).hwcfg = s.hwcfg := by
  unfold daiDigest; dsimp only; (repeat' split) <;> simp
@[simp] theorem daiDigest_intrEnable : (daiDigest s).intrEnable = s.intrEnable := by
  unfold daiDigest; dsimp only; (repeat' split) <;> simp
@[simp] theorem daiDigest_readEn : (daiDigest s).readEn = s.readEn := by
  unfold daiDigest; dsimp only; (repeat' split) <;> simp
@[simp] theorem daiDigest_lcSignals : (daiDigest s).lcSignals = s.lcSignals := by
  unfold daiDigest; dsimp only; (repeat' split) <;> simp
@[simp] theorem daiDigest_pool : (daiDigest s).pool = s.pool := by
  unfold daiDigest; dsimp only; (repeat' split) <;> simp
@[simp] theorem daiDigest_inbox : (daiDigest s).inbox = s.inbox := by
  unfold daiDigest; dsimp only; (repeat' split) <;> simp
@[simp] theorem daiDigest_answers : (daiDigest s).answers = s.answers := by
  unfold daiDigest; dsimp only; (repeat' split) <;> simp
@[simp] theorem daiDigest_outputs : (daiDigest s).outputs = s.outputs := by
  unfold daiDigest; dsimp only; (repeat' split) <;> simp
@[simp] theorem daiDigest_draws : (daiDigest s).draws = s.draws := by
  unfold daiDigest; dsimp only; (repeat' split) <;> simp

-- A committed digest.
@[simp] theorem State.commitDigest_cfg : (State.commitDigest s).cfg = s.cfg := by
  unfold State.commitDigest; split <;> simp
@[simp] theorem State.commitDigest_parts : (State.commitDigest s).parts = s.parts := by
  unfold State.commitDigest; split <;> simp
@[simp] theorem State.commitDigest_dai : (State.commitDigest s).dai = s.dai := by
  unfold State.commitDigest; split <;> simp
@[simp] theorem State.commitDigest_lci : (State.commitDigest s).lci = s.lci := by
  unfold State.commitDigest; split <;> simp
@[simp] theorem State.commitDigest_lcinfo : (State.commitDigest s).lcinfo = s.lcinfo := by
  unfold State.commitDigest; split <;> simp
@[simp] theorem State.commitDigest_hwcfg : (State.commitDigest s).hwcfg = s.hwcfg := by
  unfold State.commitDigest; split <;> simp
@[simp] theorem State.commitDigest_intrEnable : (State.commitDigest s).intrEnable = s.intrEnable := by
  unfold State.commitDigest; split <;> simp
@[simp] theorem State.commitDigest_alertLatch : (State.commitDigest s).alertLatch = s.alertLatch := by
  unfold State.commitDigest; split <;> simp
@[simp] theorem State.commitDigest_readEn : (State.commitDigest s).readEn = s.readEn := by
  unfold State.commitDigest; split <;> simp
@[simp] theorem State.commitDigest_lcSignals : (State.commitDigest s).lcSignals = s.lcSignals := by
  unfold State.commitDigest; split <;> simp
@[simp] theorem State.commitDigest_pool : (State.commitDigest s).pool = s.pool := by
  unfold State.commitDigest; split <;> simp
@[simp] theorem State.commitDigest_pending : (State.commitDigest s).pending = s.pending := by
  unfold State.commitDigest; split <;> simp
@[simp] theorem State.commitDigest_inbox : (State.commitDigest s).inbox = s.inbox := by
  unfold State.commitDigest; split <;> simp
@[simp] theorem State.commitDigest_answers : (State.commitDigest s).answers = s.answers := by
  unfold State.commitDigest; split <;> simp
@[simp] theorem State.commitDigest_outputs : (State.commitDigest s).outputs = s.outputs := by
  unfold State.commitDigest; split <;> simp

-- A fired DaiDone.
@[simp] theorem daiDone_cfg : (daiDone s).cfg = s.cfg := by
  unfold daiDone; dsimp only; (repeat' split) <;> simp
@[simp] theorem daiDone_parts : (daiDone s).parts = s.parts := by
  unfold daiDone; dsimp only; (repeat' split) <;> simp
@[simp] theorem daiDone_lci : (daiDone s).lci = s.lci := by
  unfold daiDone; dsimp only; (repeat' split) <;> simp
@[simp] theorem daiDone_lcinfo : (daiDone s).lcinfo = s.lcinfo := by
  unfold daiDone; dsimp only; (repeat' split) <;> simp
@[simp] theorem daiDone_hwcfg : (daiDone s).hwcfg = s.hwcfg := by
  unfold daiDone; dsimp only; (repeat' split) <;> simp
@[simp] theorem daiDone_intrEnable : (daiDone s).intrEnable = s.intrEnable := by
  unfold daiDone; dsimp only; (repeat' split) <;> simp
@[simp] theorem daiDone_alertLatch : (daiDone s).alertLatch = s.alertLatch := by
  unfold daiDone; dsimp only; (repeat' split) <;> simp
@[simp] theorem daiDone_readEn : (daiDone s).readEn = s.readEn := by
  unfold daiDone; dsimp only; (repeat' split) <;> simp
@[simp] theorem daiDone_lcSignals : (daiDone s).lcSignals = s.lcSignals := by
  unfold daiDone; dsimp only; (repeat' split) <;> simp
@[simp] theorem daiDone_pool : (daiDone s).pool = s.pool := by
  unfold daiDone; dsimp only; (repeat' split) <;> simp
@[simp] theorem daiDone_inbox : (daiDone s).inbox = s.inbox := by
  unfold daiDone; dsimp only; (repeat' split) <;> simp
@[simp] theorem daiDone_answers : (daiDone s).answers = s.answers := by
  unfold daiDone; dsimp only; (repeat' split) <;> simp
@[simp] theorem daiDone_outputs : (daiDone s).outputs = s.outputs := by
  unfold daiDone; dsimp only; (repeat' split) <;> simp

-- A programmed life-cycle word.
@[simp] theorem State.lciWriteWord_cfg : (State.lciWriteWord s).cfg = s.cfg := by
  simp [State.lciWriteWord]
@[simp] theorem State.lciWriteWord_backing : (State.lciWriteWord s).backing = s.backing := by
  simp [State.lciWriteWord]
@[simp] theorem State.lciWriteWord_parts : (State.lciWriteWord s).parts = s.parts := by
  simp [State.lciWriteWord]
@[simp] theorem State.lciWriteWord_dai : (State.lciWriteWord s).dai = s.dai := by
  simp [State.lciWriteWord]
@[simp] theorem State.lciWriteWord_lcinfo : (State.lciWriteWord s).lcinfo = s.lcinfo := by
  simp [State.lciWriteWord]
@[simp] theorem State.lciWriteWord_hwcfg : (State.lciWriteWord s).hwcfg = s.hwcfg := by
  simp [State.lciWriteWord]
@[simp] theorem State.lciWriteWord_intrState : (State.lciWriteWord s).intrState = s.intrState := by
  simp [State.lciWriteWord]
@[simp] theorem State.lciWriteWord_intrEnable : (State.lciWriteWord s).intrEnable = s.intrEnable := by
  simp [State.lciWriteWord]
@[simp] theorem State.lciWriteWord_alertLatch : (State.lciWriteWord s).alertLatch = s.alertLatch := by
  simp [State.lciWriteWord]
@[simp] theorem State.lciWriteWord_err : (State.lciWriteWord s).err = s.err := by
  simp [State.lciWriteWord]
@[simp] theorem State.lciWriteWord_readEn : (State.lciWriteWord s).readEn = s.readEn := by
  simp [State.lciWriteWord]
@[simp] theorem State.lciWriteWord_lcSignals : (State.lciWriteWord s).lcSignals = s.lcSignals := by
  simp [State.lciWriteWord]
@[simp] theorem State.lciWriteWord_pool : (State.lciWriteWord s).pool = s.pool := by
  simp [State.lciWriteWord]
@[simp] theorem State.lciWriteWord_inbox : (State.lciWriteWord s).inbox = s.inbox := by
  simp [State.lciWriteWord]
@[simp] theorem State.lciWriteWord_answers : (State.lciWriteWord s).answers = s.answers := by
  simp [State.lciWriteWord]
@[simp] theorem State.lciWriteWord_outputs : (State.lciWriteWord s).outputs = s.outputs := by
  simp [State.lciWriteWord]
@[simp] theorem State.lciWriteWord_draws : (State.lciWriteWord s).draws = s.draws := by
  simp [State.lciWriteWord]

-- A started request.
@[simp] theorem State.lciStart_cfg (st cnt : Nat) (cb : CallbackId) : (State.lciStart st cnt cb s).cfg = s.cfg := by
  simp [State.lciStart]
@[simp] theorem State.lciStart_backing (st cnt : Nat) (cb : CallbackId) : (State.lciStart st cnt cb s).backing = s.backing := by
  simp [State.lciStart]
@[simp] theorem State.lciStart_parts (st cnt : Nat) (cb : CallbackId) : (State.lciStart st cnt cb s).parts = s.parts := by
  simp [State.lciStart]
@[simp] theorem State.lciStart_dai (st cnt : Nat) (cb : CallbackId) : (State.lciStart st cnt cb s).dai = s.dai := by
  simp [State.lciStart]
@[simp] theorem State.lciStart_lcinfo (st cnt : Nat) (cb : CallbackId) : (State.lciStart st cnt cb s).lcinfo = s.lcinfo := by
  simp [State.lciStart]
@[simp] theorem State.lciStart_hwcfg (st cnt : Nat) (cb : CallbackId) : (State.lciStart st cnt cb s).hwcfg = s.hwcfg := by
  simp [State.lciStart]
@[simp] theorem State.lciStart_intrState (st cnt : Nat) (cb : CallbackId) : (State.lciStart st cnt cb s).intrState = s.intrState := by
  simp [State.lciStart]
@[simp] theorem State.lciStart_intrEnable (st cnt : Nat) (cb : CallbackId) : (State.lciStart st cnt cb s).intrEnable = s.intrEnable := by
  simp [State.lciStart]
@[simp] theorem State.lciStart_alertLatch (st cnt : Nat) (cb : CallbackId) : (State.lciStart st cnt cb s).alertLatch = s.alertLatch := by
  simp [State.lciStart]
@[simp] theorem State.lciStart_readEn (st cnt : Nat) (cb : CallbackId) : (State.lciStart st cnt cb s).readEn = s.readEn := by
  simp [State.lciStart]
@[simp] theorem State.lciStart_lcSignals (st cnt : Nat) (cb : CallbackId) : (State.lciStart st cnt cb s).lcSignals = s.lcSignals := by
  simp [State.lciStart]
@[simp] theorem State.lciStart_pool (st cnt : Nat) (cb : CallbackId) : (State.lciStart st cnt cb s).pool = s.pool := by
  simp [State.lciStart]
@[simp] theorem State.lciStart_inbox (st cnt : Nat) (cb : CallbackId) : (State.lciStart st cnt cb s).inbox = s.inbox := by
  simp [State.lciStart]
@[simp] theorem State.lciStart_answers (st cnt : Nat) (cb : CallbackId) : (State.lciStart st cnt cb s).answers = s.answers := by
  simp [State.lciStart]
@[simp] theorem State.lciStart_outputs (st cnt : Nat) (cb : CallbackId) : (State.lciStart st cnt cb s).outputs = s.outputs := by
  simp [State.lciStart]
@[simp] theorem State.lciStart_draws (st cnt : Nat) (cb : CallbackId) : (State.lciStart st cnt cb s).draws = s.draws := by
  simp [State.lciStart]

-- A life-cycle write-back.
@[simp] theorem State.persistLci_cfg : (State.persistLci s).cfg = s.cfg := by
  unfold State.persistLci; dsimp only; split <;> simp
@[simp] theorem State.persistLci_image : (State.persistLci s).image = s.image := by
  unfold State.persistLci; dsimp only; split <;> simp
@[simp] theorem State.persistLci_parts : (State.persistLci s).parts = s.parts := by
  unfold State.persistLci; dsimp only; split <;> simp
@[simp] theorem State.persistLci_dai : (State.persistLci s).dai = s.dai := by
  unfold State.persistLci; dsimp only; split <;> simp
@[simp] theorem State.persistLci_lcinfo : (State.persistLci s).lcinfo = s.lcinfo := by
  unfold State.persistLci; dsimp only; split <;> simp
@[simp] theorem State.persistLci_hwcfg : (State.persistLci s).hwcfg = s.hwcfg := by
  unfold State.persistLci; dsimp only; split <;> simp
@[simp] theorem State.persistLci_intrState : (State.persistLci s).intrState = s.intrState := by
  unfold State.persistLci; dsimp only; split <;> simp
@[simp] theorem State.persistLci_intrEnable : (State.persistLci s).intrEnable = s.intrEnable := by
  unfold State.persistLci; dsimp only; split <;> simp
@[simp] theorem State.persistLci_alertLatch : (State.persistLci s).alertLatch = s.alertLatch := by
  unfold State.persistLci; dsimp only; split <;> simp
@[simp] theorem State.persistLci_err : (State.persistLci s).err = s.err := by
  unfold State.persistLci; dsimp only; split <;> simp
@[simp] theorem State.persistLci_readEn : (State.persistLci s).readEn = s.readEn := by
  unfold State.persistLci; dsimp only; split <;> simp
@[simp] theorem State.persistLci_lcSignals : (State.persistLci s).lcSignals = s.lcSignals := by
  unfold State.persistLci; dsimp only; split <;> simp
@[simp] theorem State.persistLci_pool : (State.persistLci s).pool = s.pool := by
  unfold State.persistLci; dsimp only; split <;> simp
@[simp] theorem State.persistLci_pending : (State.persistLci s).pending = s.pending := by
  unfold State.persistLci; dsimp only; split <;> simp
@[simp] theorem State.persistLci_inbox : (State.persistLci s).inbox = s.inbox := by
  unfold State.persistLci; dsimp only; split <;> simp
@[simp] theorem State.persistLci_answers : (State.persistLci s).answers = s.answers := by
  unfold State.persistLci; dsimp only; split <;> simp
@[simp] theorem State.persistLci_outputs : (State.persistLci s).outputs = s.outputs := by
  unfold State.persistLci; dsimp only; split <;> simp

-- An acknowledgement.
@[simp] theorem State.lciAck_cfg (ok : Bool) : (State.lciAck ok s).cfg = s.cfg := by
  unfold State.lciAck; split <;> simp
@[simp] theorem State.lciAck_image (ok : Bool) : (State.lciAck ok s).image = s.image := by
  unfold State.lciAck; split <;> simp
@[simp] theorem State.lciAck_backing (ok : Bool) : (State.lciAck ok s).backing = s.backing := by
  unfold State.lciAck; split <;> simp
@[simp] theorem State.lciAck_parts (ok : Bool) : (State.lciAck ok s).parts = s.parts := by
  unfold State.lciAck; split <;> simp
@[simp] theorem State.lciAck_dai (ok : Bool) : (State.lciAck ok s).dai = s.dai := by
  unfold State.lciAck; split <;> simp
@[simp] theorem State.lciAck_lcinfo (ok : Bool) : (State.lciAck ok s).lcinfo = s.lcinfo := by
  unfold State.lciAck; split <;> simp
@[simp] theorem State.lciAck_hwcfg (ok : Bool) : (State.lciAck ok s).hwcfg = s.hwcfg := by
  unfold State.lciAck; split <;> simp
@[simp] theorem State.lciAck_intrState (ok : Bool) : (State.lciAck ok s).intrState = s.intrState := by
  unfold State.lciAck; split <;> simp
@[simp] theorem State.lciAck_intrEnable (ok : Bool) : (State.lciAck ok s).intrEnable = s.intrEnable := by
  unfold State.lciAck; split <;> simp
@[simp] theorem State.lciAck_alertLatch (ok : Bool) : (State.lciAck ok s).alertLatch = s.alertLatch := by
  unfold State.lciAck; split <;> simp
@[simp] theorem State.lciAck_err (ok : Bool) : (State.lciAck ok s).err = s.err := by
  unfold State.lciAck; split <;> simp
@[simp] theorem State.lciAck_readEn (ok : Bool) : (State.lciAck ok s).readEn = s.readEn := by
  unfold State.lciAck; split <;> simp
@[simp] theorem State.lciAck_lcSignals (ok : Bool) : (State.lciAck ok s).lcSignals = s.lcSignals := by
  unfold State.lciAck; split <;> simp
@[simp] theorem State.lciAck_pool (ok : Bool) : (State.lciAck ok s).pool = s.pool := by
  unfold State.lciAck; split <;> simp
@[simp] theorem State.lciAck_pending (ok : Bool) : (State.lciAck ok s).pending = s.pending := by
  unfold State.lciAck; split <;> simp
@[simp] theorem State.lciAck_inbox (ok : Bool) : (State.lciAck ok s).inbox = s.inbox := by
  unfold State.lciAck; split <;> simp
@[simp] theorem State.lciAck_answers (ok : Bool) : (State.lciAck ok s).answers = s.answers := by
  unfold State.lciAck; split <;> simp
@[simp] theorem State.lciAck_draws (ok : Bool) : (State.lciAck ok s).draws = s.draws := by
  unfold State.lciAck; split <;> simp

-- The end of a request.
@[simp] theorem State.lciFinish_cfg : (State.lciFinish s).cfg = s.cfg := by
  unfold State.lciFinish; dsimp only; split <;> simp
@[simp] theorem State.lciFinish_image : (State.lciFinish s).image = s.image := by
  unfold State.lciFinish; dsimp only; split <;> simp
@[simp] theorem State.lciFinish_parts : (State.lciFinish s).parts = s.parts := by
  unfold State.lciFinish; dsimp only; split <;> simp
@[simp] theorem State.lciFinish_dai : (State.lciFinish s).dai = s.dai := by
  unfold State.lciFinish; dsimp only; split <;> simp
@[simp] theorem State.lciFinish_lcinfo : (State.lciFinish s).lcinfo = s.lcinfo := by
  unfold State.lciFinish; dsimp only; split <;> simp
@[simp] theorem State.lciFinish_hwcfg : (State.lciFinish s).hwcfg = s.hwcfg := by
  unfold State.lciFinish; dsimp only; split <;> simp
@[simp] theorem State.lciFinish_intrEnable : (State.lciFinish s).intrEnable = s.intrEnable := by
  unfold State.lciFinish; dsimp only; split <;> simp
@[simp] theorem State.lciFinish_readEn : (State.lciFinish s).readEn = s.readEn := by
  unfold State.lciFinish; dsimp only; split <;> simp
@[simp] theorem State.lciFinish_lcSignals : (State.lciFinish s).lcSignals = s.lcSignals := by
  unfold State.lciFinish; dsimp only; split <;> simp
@[simp] theorem State.lciFinish_pool : (State.lciFinish s).pool = s.pool := by
  unfold State.lciFinish; dsimp only; split <;> simp
@[simp] theorem State.lciFinish_pending : (State.lciFinish s).pending = s.pending := by
  unfold State.lciFinish; dsimp only; split <;> simp
@[simp] theorem State.lciFinish_inbox : (State.lciFinish s).inbox = s.inbox := by
  unfold State.lciFinish; dsimp only; split <;> simp
@[simp] theorem State.lciFinish_answers : (State.lciFinish s).answers = s.answers := by
  unfold State.lciFinish; dsimp only; split <;> simp

-- A fired LciWordDone.
@[simp] theorem lciWordDone_cfg : (lciWordDone s).cfg = s.cfg := by
  unfold lciWordDone; dsimp only; (repeat' split) <;> simp
@[simp] theorem lciWordDone_parts : (lciWordDone s).parts = s.parts := by
  unfold lciWordDone; dsimp only; (repeat' split) <;> simp
@[simp] theorem lciWordDone_dai : (lciWordDone s).dai = s.dai := by
  unfold lciWordDone; dsimp only; (repeat' split) <;> simp
@[simp] theorem lciWordDone_lcinfo : (lciWordDone s).lcinfo = s.lcinfo := by
  unfold lciWordDone; dsimp only; (repeat' split) <;> simp
@[simp] theorem lciWordDone_hwcfg : (lciWordDone s).hwcfg = s.hwcfg := by
  unfold lciWordDone; dsimp only; (repeat' split) <;> simp
@[simp] theorem lciWordDone_intrEnable : (lciWordDone s).intrEnable = s.intrEnable := by
  unfold lciWordDone; dsimp only; (repeat' split) <;> simp
@[simp] theorem lciWordDone_readEn : (lciWordDone s).readEn = s.readEn := by
  unfold lciWordDone; dsimp only; (repeat' split) <;> simp
@[simp] theorem lciWordDone_lcSignals : (lciWordDone s).lcSignals = s.lcSignals := by
  unfold lciWordDone; dsimp only; (repeat' split) <;> simp
@[simp] theorem lciWordDone_pool : (lciWordDone s).pool = s.pool := by
  unfold lciWordDone; dsimp only; (repeat' split) <;> simp
@[simp] theorem lciWordDone_inbox : (lciWordDone s).inbox = s.inbox := by
  unfold lciWordDone; dsimp only; (repeat' split) <;> simp
@[simp] theorem lciWordDone_answers : (lciWordDone s).answers = s.answers := by
  unfold lciWordDone; dsimp only; (repeat' split) <;> simp

-- A life-cycle request.
@[simp] theorem lcprogAfter_cfg (st cnt : Nat) (cb : CallbackId) : (lcprogAfter st cnt cb s).cfg = s.cfg := by
  unfold lcprogAfter; split <;> simp
@[simp] theorem lcprogAfter_backing (st cnt : Nat) (cb : CallbackId) : (lcprogAfter st cnt cb s).backing = s.backing := by
  unfold lcprogAfter; split <;> simp
@[simp] theorem lcprogAfter_parts (st cnt : Nat) (cb : CallbackId) : (lcprogAfter st cnt cb s).parts = s.parts := by
  unfold lcprogAfter; split <;> simp
@[simp] theorem lcprogAfter_dai (st cnt : Nat) (cb : CallbackId) : (lcprogAfter st cnt cb s).dai = s.dai := by
  unfold lcprogAfter; split <;> simp
@[simp] theorem lcprogAfter_lcinfo (st cnt : Nat) (cb : CallbackId) : (lcprogAfter st cnt cb s).lcinfo = s.lcinfo := by
  unfold lcprogAfter; split <;> simp
@[simp] theorem lcprogAfter_hwcfg (st cnt : Nat) (cb : CallbackId) : (lcprogAfter st cnt cb s).hwcfg = s.hwcfg := by
  unfold lcprogAfter; split <;> simp
@[simp] theorem lcprogAfter_intrState (st cnt : Nat) (cb : CallbackId) : (lcprogAfter st cnt cb s).intrState = s.intrState := by
  unfold lcprogAfter; split <;> simp
@[simp] theorem lcprogAfter_intrEnable (st cnt : Nat) (cb : CallbackId) : (lcprogAfter st cnt cb s).intrEnable = s.intrEnable := by
  unfold lcprogAfter; split <;> simp
@[simp] theorem lcprogAfter_alertLatch (st cnt : Nat) (cb : CallbackId) : (lcprogAfter st cnt cb s).alertLatch = s.alertLatch := by
  unfold lcprogAfter; split <;> simp
@[simp] theorem lcprogAfter_readEn (st cnt : Nat) (cb : CallbackId) : (lcprogAfter st cnt cb s).readEn = s.readEn := by
  unfold lcprogAfter; split <;> simp
@[simp] theorem lcprogAfter_lcSignals (st cnt : Nat) (cb : CallbackId) : (lcprogAfter st cnt cb s).lcSignals = s.lcSignals := by
  unfold lcprogAfter; split <;> simp
@[simp] theorem lcprogAfter_pool (st cnt : Nat) (cb : CallbackId) : (lcprogAfter st cnt cb s).pool = s.pool := by
  unfold lcprogAfter; split <;> simp
@[simp] theorem lcprogAfter_inbox (st cnt : Nat) (cb : CallbackId) : (lcprogAfter st cnt cb s).inbox = s.inbox := by
  unfold lcprogAfter; split <;> simp
@[simp] theorem lcprogAfter_outputs (st cnt : Nat) (cb : CallbackId) : (lcprogAfter st cnt cb s).outputs = s.outputs := by
  unfold lcprogAfter; split <;> simp
@[simp] theorem lcprogAfter_draws (st cnt : Nat) (cb : CallbackId) : (lcprogAfter st cnt cb s).draws = s.draws := by
  unfold lcprogAfter; split <;> simp

-- A window read.
@[simp] theorem windowRead_cfg (a : Nat) : (windowRead a s).cfg = s.cfg := by
  unfold windowRead; dsimp only; (repeat' split) <;> simp
@[simp] theorem windowRead_image (a : Nat) : (windowRead a s).image = s.image := by
  unfold windowRead; dsimp only; (repeat' split) <;> simp
@[simp] theorem windowRead_backing (a : Nat) : (windowRead a s).backing = s.backing := by
  unfold windowRead; dsimp only; (repeat' split) <;> simp
@[simp] theorem windowRead_dai (a : Nat) : (windowRead a s).dai = s.dai := by
  unfold windowRead; dsimp only; (repeat' split) <;> simp
@[simp] theorem windowRead_lci (a : Nat) : (windowRead a s).lci = s.lci := by
  unfold windowRead; dsimp only; (repeat' split) <;> simp
@[simp] theorem windowRead_lcinfo (a : Nat) : (windowRead a s).lcinfo = s.lcinfo := by
  unfold windowRead; dsimp only; (repeat' split) <;> simp
@[simp] theorem windowRead_hwcfg (a : Nat) : (windowRead a s).hwcfg = s.hwcfg := by
  unfold windowRead; dsimp only; (repeat' split) <;> simp
@[simp] theorem windowRead_intrEnable (a : Nat) : (windowRead a s).intrEnable = s.intrEnable := by
  unfold windowRead; dsimp only; (repeat' split) <;> simp
@[simp] theorem windowRead_readEn (a : Nat) : (windowRead a s).readEn = s.readEn := by
  unfold windowRead; dsimp only; (repeat' split) <;> simp
@[simp] theorem windowRead_lcSignals (a : Nat) : (windowRead a s).lcSignals = s.lcSignals := by
  unfold windowRead; dsimp only; (repeat' split) <;> simp
@[simp] theorem windowRead_pool (a : Nat) : (windowRead a s).pool = s.pool := by
  unfold windowRead; dsimp only; (repeat' split) <;> simp
@[simp] theorem windowRead_pending (a : Nat) : (windowRead a s).pending = s.pending := by
  unfold windowRead; dsimp only; (repeat' split) <;> simp
@[simp] theorem windowRead_inbox (a : Nat) : (windowRead a s).inbox = s.inbox := by
  unfold windowRead; dsimp only; (repeat' split) <;> simp
@[simp] theorem windowRead_outputs (a : Nat) : (windowRead a s).outputs = s.outputs := by
  unfold windowRead; dsimp only; (repeat' split) <;> simp
@[simp] theorem windowRead_draws (a : Nat) : (windowRead a s).draws = s.draws := by
  unfold windowRead; dsimp only; (repeat' split) <;> simp

-- A taken entropy word.
@[simp] theorem State.takeWord_cfg : ((s.takeWord).2).cfg = s.cfg := by
  unfold State.takeWord; split <;> rfl
@[simp] theorem State.takeWord_image : ((s.takeWord).2).image = s.image := by
  unfold State.takeWord; split <;> rfl
@[simp] theorem State.takeWord_backing : ((s.takeWord).2).backing = s.backing := by
  unfold State.takeWord; split <;> rfl
@[simp] theorem State.takeWord_parts : ((s.takeWord).2).parts = s.parts := by
  unfold State.takeWord; split <;> rfl
@[simp] theorem State.takeWord_dai : ((s.takeWord).2).dai = s.dai := by
  unfold State.takeWord; split <;> rfl
@[simp] theorem State.takeWord_lci : ((s.takeWord).2).lci = s.lci := by
  unfold State.takeWord; split <;> rfl
@[simp] theorem State.takeWord_lcinfo : ((s.takeWord).2).lcinfo = s.lcinfo := by
  unfold State.takeWord; split <;> rfl
@[simp] theorem State.takeWord_hwcfg : ((s.takeWord).2).hwcfg = s.hwcfg := by
  unfold State.takeWord; split <;> rfl
@[simp] theorem State.takeWord_intrState : ((s.takeWord).2).intrState = s.intrState := by
  unfold State.takeWord; split <;> rfl
@[simp] theorem State.takeWord_intrEnable : ((s.takeWord).2).intrEnable = s.intrEnable := by
  unfold State.takeWord; split <;> rfl
@[simp] theorem State.takeWord_alertLatch : ((s.takeWord).2).alertLatch = s.alertLatch := by
  unfold State.takeWord; split <;> rfl
@[simp] theorem State.takeWord_err : ((s.takeWord).2).err = s.err := by
  unfold State.takeWord; split <;> rfl
@[simp] theorem State.takeWord_readEn : ((s.takeWord).2).readEn = s.readEn := by
  unfold State.takeWord; split <;> rfl
@[simp] theorem State.takeWord_lcSignals : ((s.takeWord).2).lcSignals = s.lcSignals := by
  unfold State.takeWord; split <;> rfl
@[simp] theorem State.takeWord_pending : ((s.takeWord).2).pending = s.pending := by
  unfold State.takeWord; split <;> rfl
@[simp] theorem State.takeWord_inbox : ((s.takeWord).2).inbox = s.inbox := by
  unfold State.takeWord; split <;> rfl
@[simp] theorem State.takeWord_answers : ((s.takeWord).2).answers = s.answers := by
  unfold State.takeWord; split <;> rfl
@[simp] theorem State.takeWord_outputs : ((s.takeWord).2).outputs = s.outputs := by
  unfold State.takeWord; split <;> rfl

-- Taken entropy words.
@[simp] theorem State.takeWords_cfg (n : Nat) : ((State.takeWords n s).2).cfg = s.cfg := by
  induction n generalizing s with
  | zero => rfl
  | succ n ih => simp [State.takeWords, ih]
@[simp] theorem State.takeWords_image (n : Nat) : ((State.takeWords n s).2).image = s.image := by
  induction n generalizing s with
  | zero => rfl
  | succ n ih => simp [State.takeWords, ih]
@[simp] theorem State.takeWords_backing (n : Nat) : ((State.takeWords n s).2).backing = s.backing := by
  induction n generalizing s with
  | zero => rfl
  | succ n ih => simp [State.takeWords, ih]
@[simp] theorem State.takeWords_parts (n : Nat) : ((State.takeWords n s).2).parts = s.parts := by
  induction n generalizing s with
  | zero => rfl
  | succ n ih => simp [State.takeWords, ih]
@[simp] theorem State.takeWords_dai (n : Nat) : ((State.takeWords n s).2).dai = s.dai := by
  induction n generalizing s with
  | zero => rfl
  | succ n ih => simp [State.takeWords, ih]
@[simp] theorem State.takeWords_lci (n : Nat) : ((State.takeWords n s).2).lci = s.lci := by
  induction n generalizing s with
  | zero => rfl
  | succ n ih => simp [State.takeWords, ih]
@[simp] theorem State.takeWords_lcinfo (n : Nat) : ((State.takeWords n s).2).lcinfo = s.lcinfo := by
  induction n generalizing s with
  | zero => rfl
  | succ n ih => simp [State.takeWords, ih]
@[simp] theorem State.takeWords_hwcfg (n : Nat) : ((State.takeWords n s).2).hwcfg = s.hwcfg := by
  induction n generalizing s with
  | zero => rfl
  | succ n ih => simp [State.takeWords, ih]
@[simp] theorem State.takeWords_intrState (n : Nat) : ((State.takeWords n s).2).intrState = s.intrState := by
  induction n generalizing s with
  | zero => rfl
  | succ n ih => simp [State.takeWords, ih]
@[simp] theorem State.takeWords_intrEnable (n : Nat) : ((State.takeWords n s).2).intrEnable = s.intrEnable := by
  induction n generalizing s with
  | zero => rfl
  | succ n ih => simp [State.takeWords, ih]
@[simp] theorem State.takeWords_alertLatch (n : Nat) : ((State.takeWords n s).2).alertLatch = s.alertLatch := by
  induction n generalizing s with
  | zero => rfl
  | succ n ih => simp [State.takeWords, ih]
@[simp] theorem State.takeWords_err (n : Nat) : ((State.takeWords n s).2).err = s.err := by
  induction n generalizing s with
  | zero => rfl
  | succ n ih => simp [State.takeWords, ih]
@[simp] theorem State.takeWords_readEn (n : Nat) : ((State.takeWords n s).2).readEn = s.readEn := by
  induction n generalizing s with
  | zero => rfl
  | succ n ih => simp [State.takeWords, ih]
@[simp] theorem State.takeWords_lcSignals (n : Nat) : ((State.takeWords n s).2).lcSignals = s.lcSignals := by
  induction n generalizing s with
  | zero => rfl
  | succ n ih => simp [State.takeWords, ih]
@[simp] theorem State.takeWords_pending (n : Nat) : ((State.takeWords n s).2).pending = s.pending := by
  induction n generalizing s with
  | zero => rfl
  | succ n ih => simp [State.takeWords, ih]
@[simp] theorem State.takeWords_inbox (n : Nat) : ((State.takeWords n s).2).inbox = s.inbox := by
  induction n generalizing s with
  | zero => rfl
  | succ n ih => simp [State.takeWords, ih]
@[simp] theorem State.takeWords_answers (n : Nat) : ((State.takeWords n s).2).answers = s.answers := by
  induction n generalizing s with
  | zero => rfl
  | succ n ih => simp [State.takeWords, ih]
@[simp] theorem State.takeWords_outputs (n : Nat) : ((State.takeWords n s).2).outputs = s.outputs := by
  induction n generalizing s with
  | zero => rfl
  | succ n ih => simp [State.takeWords, ih]

-- A key request.
@[simp] theorem getKey_cfg (k : Nat) (kt : KeyType) : (getKey k kt s).cfg = s.cfg := by
  simp [getKey]
@[simp] theorem getKey_image (k : Nat) (kt : KeyType) : (getKey k kt s).image = s.image := by
  simp [getKey]
@[simp] theorem getKey_backing (k : Nat) (kt : KeyType) : (getKey k kt s).backing = s.backing := by
  simp [getKey]
@[simp] theorem getKey_parts (k : Nat) (kt : KeyType) : (getKey k kt s).parts = s.parts := by
  simp [getKey]
@[simp] theorem getKey_dai (k : Nat) (kt : KeyType) : (getKey k kt s).dai = s.dai := by
  simp [getKey]
@[simp] theorem getKey_lci (k : Nat) (kt : KeyType) : (getKey k kt s).lci = s.lci := by
  simp [getKey]
@[simp] theorem getKey_lcinfo (k : Nat) (kt : KeyType) : (getKey k kt s).lcinfo = s.lcinfo := by
  simp [getKey]
@[simp] theorem getKey_hwcfg (k : Nat) (kt : KeyType) : (getKey k kt s).hwcfg = s.hwcfg := by
  simp [getKey]
@[simp] theorem getKey_intrState (k : Nat) (kt : KeyType) : (getKey k kt s).intrState = s.intrState := by
  simp [getKey]
@[simp] theorem getKey_intrEnable (k : Nat) (kt : KeyType) : (getKey k kt s).intrEnable = s.intrEnable := by
  simp [getKey]
@[simp] theorem getKey_alertLatch (k : Nat) (kt : KeyType) : (getKey k kt s).alertLatch = s.alertLatch := by
  simp [getKey]
@[simp] theorem getKey_err (k : Nat) (kt : KeyType) : (getKey k kt s).err = s.err := by
  simp [getKey]
@[simp] theorem getKey_readEn (k : Nat) (kt : KeyType) : (getKey k kt s).readEn = s.readEn := by
  simp [getKey]
@[simp] theorem getKey_lcSignals (k : Nat) (kt : KeyType) : (getKey k kt s).lcSignals = s.lcSignals := by
  simp [getKey]
@[simp] theorem getKey_inbox (k : Nat) (kt : KeyType) : (getKey k kt s).inbox = s.inbox := by
  simp [getKey]

-- A key request.
@[simp] theorem keyAfter_cfg (k : Nat) : (keyAfter k s).cfg = s.cfg := by
  unfold keyAfter; split <;> simp
@[simp] theorem keyAfter_image (k : Nat) : (keyAfter k s).image = s.image := by
  unfold keyAfter; split <;> simp
@[simp] theorem keyAfter_backing (k : Nat) : (keyAfter k s).backing = s.backing := by
  unfold keyAfter; split <;> simp
@[simp] theorem keyAfter_parts (k : Nat) : (keyAfter k s).parts = s.parts := by
  unfold keyAfter; split <;> simp
@[simp] theorem keyAfter_dai (k : Nat) : (keyAfter k s).dai = s.dai := by
  unfold keyAfter; split <;> simp
@[simp] theorem keyAfter_lci (k : Nat) : (keyAfter k s).lci = s.lci := by
  unfold keyAfter; split <;> simp
@[simp] theorem keyAfter_lcinfo (k : Nat) : (keyAfter k s).lcinfo = s.lcinfo := by
  unfold keyAfter; split <;> simp
@[simp] theorem keyAfter_hwcfg (k : Nat) : (keyAfter k s).hwcfg = s.hwcfg := by
  unfold keyAfter; split <;> simp
@[simp] theorem keyAfter_intrState (k : Nat) : (keyAfter k s).intrState = s.intrState := by
  unfold keyAfter; split <;> simp
@[simp] theorem keyAfter_intrEnable (k : Nat) : (keyAfter k s).intrEnable = s.intrEnable := by
  unfold keyAfter; split <;> simp
@[simp] theorem keyAfter_alertLatch (k : Nat) : (keyAfter k s).alertLatch = s.alertLatch := by
  unfold keyAfter; split <;> simp
@[simp] theorem keyAfter_err (k : Nat) : (keyAfter k s).err = s.err := by
  unfold keyAfter; split <;> simp
@[simp] theorem keyAfter_readEn (k : Nat) : (keyAfter k s).readEn = s.readEn := by
  unfold keyAfter; split <;> simp
@[simp] theorem keyAfter_lcSignals (k : Nat) : (keyAfter k s).lcSignals = s.lcSignals := by
  unfold keyAfter; split <;> simp
@[simp] theorem keyAfter_inbox (k : Nat) : (keyAfter k s).inbox = s.inbox := by
  unfold keyAfter; split <;> simp

-- An entropy delivery.
@[simp] theorem deliverEntropy_cfg (w : Word) : (deliverEntropy w s).cfg = s.cfg := by
  simp [deliverEntropy]
@[simp] theorem deliverEntropy_image (w : Word) : (deliverEntropy w s).image = s.image := by
  simp [deliverEntropy]
@[simp] theorem deliverEntropy_backing (w : Word) : (deliverEntropy w s).backing = s.backing := by
  simp [deliverEntropy]
@[simp] theorem deliverEntropy_parts (w : Word) : (deliverEntropy w s).parts = s.parts := by
  simp [deliverEntropy]
@[simp] theorem deliverEntropy_dai (w : Word) : (deliverEntropy w s).dai = s.dai := by
  simp [deliverEntropy]
@[simp] theorem deliverEntropy_lci (w : Word) : (deliverEntropy w s).lci = s.lci := by
  simp [deliverEntropy]
@[simp] theorem deliverEntropy_lcinfo (w : Word) : (deliverEntropy w s).lcinfo = s.lcinfo := by
  simp [deliverEntropy]
@[simp] theorem deliverEntropy_hwcfg (w : Word) : (deliverEntropy w s).hwcfg = s.hwcfg := by
  simp [deliverEntropy]
@[simp] theorem deliverEntropy_intrState (w : Word) : (deliverEntropy w s).intrState = s.intrState := by
  simp [deliverEntropy]
@[simp] theorem deliverEntropy_intrEnable (w : Word) : (deliverEntropy w s).intrEnable = s.intrEnable := by
  simp [deliverEntropy]
@[simp] theorem deliverEntropy_alertLatch (w : Word) : (deliverEntropy w s).alertLatch = s.alertLatch := by
  simp [deliverEntropy]
@[simp] theorem deliverEntropy_err (w : Word) : (deliverEntropy w s).err = s.err := by
  simp [deliverEntropy]
@[simp] theorem deliverEntropy_readEn (w : Word) : (deliverEntropy w s).readEn = s.readEn := by
  simp [deliverEntropy]
@[simp] theorem deliverEntropy_lcSignals (w : Word) : (deliverEntropy w s).lcSignals = s.lcSignals := by
  simp [deliverEntropy]
@[simp] theorem deliverEntropy_inbox (w : Word) : (deliverEntropy w s).inbox = s.inbox := by
  simp [deliverEntropy]
@[simp] theorem deliverEntropy_answers (w : Word) : (deliverEntropy w s).answers = s.answers := by
  simp [deliverEntropy]
@[simp] theorem deliverEntropy_draws (w : Word) : (deliverEntropy w s).draws = s.draws := by
  simp [deliverEntropy]

-- A broadcast signal.
@[simp] theorem lcSignal_cfg (n : LcSignal) (b : Bool) : (lcSignal n b s).cfg = s.cfg := by
  unfold lcSignal; dsimp only; (repeat' split) <;> simp
@[simp] theorem lcSignal_image (n : LcSignal) (b : Bool) : (lcSignal n b s).image = s.image := by
  unfold lcSignal; dsimp only; (repeat' split) <;> simp
@[simp] theorem lcSignal_backing (n : LcSignal) (b : Bool) : (lcSignal n b s).backing = s.backing := by
  unfold lcSignal; dsimp only; (repeat' split) <;> simp
@[simp] theorem lcSignal_lcinfo (n : LcSignal) (b : Bool) : (lcSignal n b s).lcinfo = s.lcinfo := by
  unfold lcSignal; dsimp only; (repeat' split) <;> simp
@[simp] theorem lcSignal_hwcfg (n : LcSignal) (b : Bool) : (lcSignal n b s).hwcfg = s.hwcfg := by
  unfold lcSignal; dsimp only; (repeat' split) <;> simp
@[simp] theorem lcSignal_intrEnable (n : LcSignal) (b : Bool) : (lcSignal n b s).intrEnable = s.intrEnable := by
  unfold lcSignal; dsimp only; (repeat' split) <;> simp
@[simp] theorem lcSignal_readEn (n : LcSignal) (b : Bool) : (lcSignal n b s).readEn = s.readEn := by
  unfold lcSignal; dsimp only; (repeat' split) <;> simp
@[simp] theorem lcSignal_pool (n : LcSignal) (b : Bool) : (lcSignal n b s).pool = s.pool := by
  unfold lcSignal; dsimp only; (repeat' split) <;> simp
@[simp] theorem lcSignal_pending (n : LcSignal) (b : Bool) : (lcSignal n b s).pending = s.pending := by
  unfold lcSignal; dsimp only; (repeat' split) <;> simp
@[simp] theorem lcSignal_inbox (n : LcSignal) (b : Bool) : (lcSignal n b s).inbox = s.inbox := by
  unfold lcSignal; dsimp only; (repeat' split) <;> simp
@[simp] theorem lcSignal_answers (n : LcSignal) (b : Bool) : (lcSignal n b s).answers = s.answers := by
  unfold lcSignal; dsimp only; (repeat' split) <;> simp
@[simp] theorem lcSignal_outputs (n : LcSignal) (b : Bool) : (lcSignal n b s).outputs = s.outputs := by
  unfold lcSignal; dsimp only; (repeat' split) <;> simp
@[simp] theorem lcSignal_draws (n : LcSignal) (b : Bool) : (lcSignal n b s).draws = s.draws := by
  unfold lcSignal; dsimp only; (repeat' split) <;> simp

-- A device reset.
@[simp] theorem State.resetDevice_cfg : (s.resetDevice).cfg = s.cfg := by
  simp [State.resetDevice, State.cleared]
@[simp] theorem State.resetDevice_image : (s.resetDevice).image = s.image := by
  simp [State.resetDevice, State.cleared]
@[simp] theorem State.resetDevice_backing : (s.resetDevice).backing = s.backing := by
  simp [State.resetDevice, State.cleared]
@[simp] theorem State.resetDevice_inbox : (s.resetDevice).inbox = s.inbox := by
  simp [State.resetDevice, State.cleared]
@[simp] theorem State.resetDevice_answers : (s.resetDevice).answers = s.answers := by
  simp [State.resetDevice, State.cleared]
@[simp] theorem State.resetDevice_draws : (s.resetDevice).draws = s.draws := by
  simp [State.resetDevice, State.cleared]

-- One granule of the ECC pass.
@[simp] theorem eccGranule_cfg (p g : Nat) (wc : List Byte) (al : Bool) : ((eccGranule p ⟨s, wc, al⟩ g).state).cfg = s.cfg := by
  unfold eccGranule; dsimp only; (repeat' split) <;> simp
@[simp] theorem eccGranule_image (p g : Nat) (wc : List Byte) (al : Bool) : ((eccGranule p ⟨s, wc, al⟩ g).state).image = s.image := by
  unfold eccGranule; dsimp only; (repeat' split) <;> simp
@[simp] theorem eccGranule_backing (p g : Nat) (wc : List Byte) (al : Bool) : ((eccGranule p ⟨s, wc, al⟩ g).state).backing = s.backing := by
  unfold eccGranule; dsimp only; (repeat' split) <;> simp
@[simp] theorem eccGranule_dai (p g : Nat) (wc : List Byte) (al : Bool) : ((eccGranule p ⟨s, wc, al⟩ g).state).dai = s.dai := by
  unfold eccGranule; dsimp only; (repeat' split) <;> simp
@[simp] theorem eccGranule_lci (p g : Nat) (wc : List Byte) (al : Bool) : ((eccGranule p ⟨s, wc, al⟩ g).state).lci = s.lci := by
  unfold eccGranule; dsimp only; (repeat' split) <;> simp
@[simp] theorem eccGranule_lcinfo (p g : Nat) (wc : List Byte) (al : Bool) : ((eccGranule p ⟨s, wc, al⟩ g).state).lcinfo = s.lcinfo := by
  unfold eccGranule; dsimp only; (repeat' split) <;> simp
@[simp] theorem eccGranule_hwcfg (p g : Nat) (wc : List Byte) (al : Bool) : ((eccGranule p ⟨s, wc, al⟩ g).state).hwcfg = s.hwcfg := by
  unfold eccGranule; dsimp only; (repeat' split) <;> simp
@[simp] theorem eccGranule_intrEnable (p g : Nat) (wc : List Byte) (al : Bool) : ((eccGranule p ⟨s, wc, al⟩ g).state).intrEnable = s.intrEnable := by
  unfold eccGranule; dsimp only; (repeat' split) <;> simp
@[simp] theorem eccGranule_readEn (p g : Nat) (wc : List Byte) (al : Bool) : ((eccGranule p ⟨s, wc, al⟩ g).state).readEn = s.readEn := by
  unfold eccGranule; dsimp only; (repeat' split) <;> simp
@[simp] theorem eccGranule_lcSignals (p g : Nat) (wc : List Byte) (al : Bool) : ((eccGranule p ⟨s, wc, al⟩ g).state).lcSignals = s.lcSignals := by
  unfold eccGranule; dsimp only; (repeat' split) <;> simp
@[simp] theorem eccGranule_pool (p g : Nat) (wc : List Byte) (al : Bool) : ((eccGranule p ⟨s, wc, al⟩ g).state).pool = s.pool := by
  unfold eccGranule; dsimp only; (repeat' split) <;> simp
@[simp] theorem eccGranule_pending (p g : Nat) (wc : List Byte) (al : Bool) : ((eccGranule p ⟨s, wc, al⟩ g).state).pending = s.pending := by
  unfold eccGranule; dsimp only; (repeat' split) <;> simp
@[simp] theorem eccGranule_inbox (p g : Nat) (wc : List Byte) (al : Bool) : ((eccGranule p ⟨s, wc, al⟩ g).state).inbox = s.inbox := by
  unfold eccGranule; dsimp only; (repeat' split) <;> simp
@[simp] theorem eccGranule_answers (p g : Nat) (wc : List Byte) (al : Bool) : ((eccGranule p ⟨s, wc, al⟩ g).state).answers = s.answers := by
  unfold eccGranule; dsimp only; (repeat' split) <;> simp
@[simp] theorem eccGranule_outputs (p g : Nat) (wc : List Byte) (al : Bool) : ((eccGranule p ⟨s, wc, al⟩ g).state).outputs = s.outputs := by
  unfold eccGranule; dsimp only; (repeat' split) <;> simp
@[simp] theorem eccGranule_draws (p g : Nat) (wc : List Byte) (al : Bool) : ((eccGranule p ⟨s, wc, al⟩ g).state).draws = s.draws := by
  unfold eccGranule; dsimp only; (repeat' split) <;> simp

/-- The ECC pass keeps every component that each granule keeps. -/
theorem eccPass_keeps {α : Type} (f : State → α)
    (h : ∀ (s : State) (p g : Nat) (wc : List Byte) (al : Bool), f (eccGranule p ⟨s, wc, al⟩ g).state = f s)
    (p : Nat) : f (eccPass p s).state = f s := by
  unfold eccPass
  generalize (s.cfg.desc p).granules = gs
  suffices ∀ w : Pass, f (gs.foldl (eccGranule p) w).state = f w.state from this ⟨s, [], true⟩
  intro w
  induction gs generalizing w with
  | nil => rfl
  | cons g gs ih => exact (ih _).trans (h w.state p g w.copy w.alive)

/-- Power-up of the partitions keeps every component that the ECC pass and the load keep. -/
theorem powerupParts_keeps {α : Type} (f : State → α)
    (h : ∀ (s : State) (p g : Nat) (wc : List Byte) (al : Bool), f (eccGranule p ⟨s, wc, al⟩ g).state = f s)
    (h2 : ∀ (s : State) (p : Nat) (wc : List Byte), f (s.loadPartition p wc) = f s) :
    f (powerupParts s).1 = f s := by
  unfold powerupParts
  generalize List.range s.cfg.nPart = l
  suffices ∀ w : State × List (List Byte),
      f (l.foldl (fun acc p => let r := powerupPartition p acc.1; (r.1, acc.2 ++ [r.2])) w).1 = f w.1 from
    this (s, [])
  intro w
  induction l generalizing w with
  | nil => rfl
  | cons p l ih =>
    refine (ih _).trans ?_
    simp only [powerupPartition]
    split
    · exact (h2 _ _ _).trans (eccPass_keeps w.1 f h p)
    · exact eccPass_keeps w.1 f h p

-- A loaded partition.
@[simp] theorem State.loadPartition_cfg (p : Nat) (wc : List Byte) : (s.loadPartition p wc).cfg = s.cfg := by
  unfold State.loadPartition State.verifyBuffered; dsimp only; (repeat' split) <;> simp
@[simp] theorem State.loadPartition_image (p : Nat) (wc : List Byte) : (s.loadPartition p wc).image = s.image := by
  unfold State.loadPartition State.verifyBuffered; dsimp only; (repeat' split) <;> simp
@[simp] theorem State.loadPartition_backing (p : Nat) (wc : List Byte) : (s.loadPartition p wc).backing = s.backing := by
  unfold State.loadPartition State.verifyBuffered; dsimp only; (repeat' split) <;> simp
@[simp] theorem State.loadPartition_dai (p : Nat) (wc : List Byte) : (s.loadPartition p wc).dai = s.dai := by
  unfold State.loadPartition State.verifyBuffered; dsimp only; (repeat' split) <;> simp
@[simp] theorem State.loadPartition_lci (p : Nat) (wc : List Byte) : (s.loadPartition p wc).lci = s.lci := by
  unfold State.loadPartition State.verifyBuffered; dsimp only; (repeat' split) <;> simp
@[simp] theorem State.loadPartition_lcinfo (p : Nat) (wc : List Byte) : (s.loadPartition p wc).lcinfo = s.lcinfo := by
  unfold State.loadPartition State.verifyBuffered; dsimp only; (repeat' split) <;> simp
@[simp] theorem State.loadPartition_hwcfg (p : Nat) (wc : List Byte) : (s.loadPartition p wc).hwcfg = s.hwcfg := by
  unfold State.loadPartition State.verifyBuffered; dsimp only; (repeat' split) <;> simp
@[simp] theorem State.loadPartition_intrEnable (p : Nat) (wc : List Byte) : (s.loadPartition p wc).intrEnable = s.intrEnable := by
  unfold State.loadPartition State.verifyBuffered; dsimp only; (repeat' split) <;> simp
@[simp] theorem State.loadPartition_readEn (p : Nat) (wc : List Byte) : (s.loadPartition p wc).readEn = s.readEn := by
  unfold State.loadPartition State.verifyBuffered; dsimp only; (repeat' split) <;> simp
@[simp] theorem State.loadPartition_lcSignals (p : Nat) (wc : List Byte) : (s.loadPartition p wc).lcSignals = s.lcSignals := by
  unfold State.loadPartition State.verifyBuffered; dsimp only; (repeat' split) <;> simp
@[simp] theorem State.loadPartition_pool (p : Nat) (wc : List Byte) : (s.loadPartition p wc).pool = s.pool := by
  unfold State.loadPartition State.verifyBuffered; dsimp only; (repeat' split) <;> simp
@[simp] theorem State.loadPartition_pending (p : Nat) (wc : List Byte) : (s.loadPartition p wc).pending = s.pending := by
  unfold State.loadPartition State.verifyBuffered; dsimp only; (repeat' split) <;> simp
@[simp] theorem State.loadPartition_inbox (p : Nat) (wc : List Byte) : (s.loadPartition p wc).inbox = s.inbox := by
  unfold State.loadPartition State.verifyBuffered; dsimp only; (repeat' split) <;> simp
@[simp] theorem State.loadPartition_answers (p : Nat) (wc : List Byte) : (s.loadPartition p wc).answers = s.answers := by
  unfold State.loadPartition State.verifyBuffered; dsimp only; (repeat' split) <;> simp
@[simp] theorem State.loadPartition_outputs (p : Nat) (wc : List Byte) : (s.loadPartition p wc).outputs = s.outputs := by
  unfold State.loadPartition State.verifyBuffered; dsimp only; (repeat' split) <;> simp
@[simp] theorem State.loadPartition_draws (p : Nat) (wc : List Byte) : (s.loadPartition p wc).draws = s.draws := by
  unfold State.loadPartition State.verifyBuffered; dsimp only; (repeat' split) <;> simp

-- Power-up.
@[simp] theorem powerupParts_cfg : (powerupParts s).1.cfg = s.cfg :=
  powerupParts_keeps s _ (fun s p g wc al => eccGranule_cfg s p g wc al) (fun s p wc => State.loadPartition_cfg s p wc)
@[simp] theorem powerupParts_image : (powerupParts s).1.image = s.image :=
  powerupParts_keeps s _ (fun s p g wc al => eccGranule_image s p g wc al) (fun s p wc => State.loadPartition_image s p wc)
@[simp] theorem powerupParts_backing : (powerupParts s).1.backing = s.backing :=
  powerupParts_keeps s _ (fun s p g wc al => eccGranule_backing s p g wc al) (fun s p wc => State.loadPartition_backing s p wc)
@[simp] theorem powerupParts_dai : (powerupParts s).1.dai = s.dai :=
  powerupParts_keeps s _ (fun s p g wc al => eccGranule_dai s p g wc al) (fun s p wc => State.loadPartition_dai s p wc)
@[simp] theorem powerupParts_lci : (powerupParts s).1.lci = s.lci :=
  powerupParts_keeps s _ (fun s p g wc al => eccGranule_lci s p g wc al) (fun s p wc => State.loadPartition_lci s p wc)
@[simp] theorem powerupParts_lcinfo : (powerupParts s).1.lcinfo = s.lcinfo :=
  powerupParts_keeps s _ (fun s p g wc al => eccGranule_lcinfo s p g wc al) (fun s p wc => State.loadPartition_lcinfo s p wc)
@[simp] theorem powerupParts_hwcfg : (powerupParts s).1.hwcfg = s.hwcfg :=
  powerupParts_keeps s _ (fun s p g wc al => eccGranule_hwcfg s p g wc al) (fun s p wc => State.loadPartition_hwcfg s p wc)
@[simp] theorem powerupParts_intrEnable : (powerupParts s).1.intrEnable = s.intrEnable :=
  powerupParts_keeps s _ (fun s p g wc al => eccGranule_intrEnable s p g wc al) (fun s p wc => State.loadPartition_intrEnable s p wc)
@[simp] theorem powerupParts_readEn : (powerupParts s).1.readEn = s.readEn :=
  powerupParts_keeps s _ (fun s p g wc al => eccGranule_readEn s p g wc al) (fun s p wc => State.loadPartition_readEn s p wc)
@[simp] theorem powerupParts_lcSignals : (powerupParts s).1.lcSignals = s.lcSignals :=
  powerupParts_keeps s _ (fun s p g wc al => eccGranule_lcSignals s p g wc al) (fun s p wc => State.loadPartition_lcSignals s p wc)
@[simp] theorem powerupParts_pool : (powerupParts s).1.pool = s.pool :=
  powerupParts_keeps s _ (fun s p g wc al => eccGranule_pool s p g wc al) (fun s p wc => State.loadPartition_pool s p wc)
@[simp] theorem powerupParts_pending : (powerupParts s).1.pending = s.pending :=
  powerupParts_keeps s _ (fun s p g wc al => eccGranule_pending s p g wc al) (fun s p wc => State.loadPartition_pending s p wc)
@[simp] theorem powerupParts_inbox : (powerupParts s).1.inbox = s.inbox :=
  powerupParts_keeps s _ (fun s p g wc al => eccGranule_inbox s p g wc al) (fun s p wc => State.loadPartition_inbox s p wc)
@[simp] theorem powerupParts_answers : (powerupParts s).1.answers = s.answers :=
  powerupParts_keeps s _ (fun s p g wc al => eccGranule_answers s p g wc al) (fun s p wc => State.loadPartition_answers s p wc)
@[simp] theorem powerupParts_outputs : (powerupParts s).1.outputs = s.outputs :=
  powerupParts_keeps s _ (fun s p g wc al => eccGranule_outputs s p g wc al) (fun s p wc => State.loadPartition_outputs s p wc)
@[simp] theorem powerupParts_draws : (powerupParts s).1.draws = s.draws :=
  powerupParts_keeps s _ (fun s p g wc al => eccGranule_draws s p g wc al) (fun s p wc => State.loadPartition_draws s p wc)
@[simp] theorem powerup_cfg : (powerup s).cfg = s.cfg := by
  simp [powerup, State.finishPowerup, State.loadHwCfg, State.loadLcInfo]
@[simp] theorem powerup_image : (powerup s).image = s.image := by
  simp [powerup, State.finishPowerup, State.loadHwCfg, State.loadLcInfo]
@[simp] theorem powerup_backing : (powerup s).backing = s.backing := by
  simp [powerup, State.finishPowerup, State.loadHwCfg, State.loadLcInfo]
@[simp] theorem powerup_intrEnable : (powerup s).intrEnable = s.intrEnable := by
  simp [powerup, State.finishPowerup, State.loadHwCfg, State.loadLcInfo]
@[simp] theorem powerup_readEn : (powerup s).readEn = s.readEn := by
  simp [powerup, State.finishPowerup, State.loadHwCfg, State.loadLcInfo]
@[simp] theorem powerup_lcSignals : (powerup s).lcSignals = s.lcSignals := by
  simp [powerup, State.finishPowerup, State.loadHwCfg, State.loadLcInfo]
@[simp] theorem powerup_pool : (powerup s).pool = s.pool := by
  simp [powerup, State.finishPowerup, State.loadHwCfg, State.loadLcInfo]
@[simp] theorem powerup_pending : (powerup s).pending = s.pending := by
  simp [powerup, State.finishPowerup, State.loadHwCfg, State.loadLcInfo]
@[simp] theorem powerup_inbox : (powerup s).inbox = s.inbox := by
  simp [powerup, State.finishPowerup, State.loadHwCfg, State.loadLcInfo]
@[simp] theorem powerup_answers : (powerup s).answers = s.answers := by
  simp [powerup, State.finishPowerup, State.loadHwCfg, State.loadLcInfo]
@[simp] theorem powerup_draws : (powerup s).draws = s.draws := by
  simp [powerup, State.finishPowerup, State.loadHwCfg, State.loadLcInfo]
theorem powerup_dai : (powerup s).dai = { s.dai with fsm := .idle, part := none } := by
  simp [powerup, State.finishPowerup, State.loadHwCfg, State.loadLcInfo]
theorem powerup_lci : (powerup s).lci = { s.lci with fsm := .idle } := by
  simp [powerup, State.finishPowerup, State.loadHwCfg, State.loadLcInfo]
theorem powerup_outputs : (powerup s).outputs = s.outputs ++ [.pwrupAck] := by
  simp [powerup, State.finishPowerup, State.loadHwCfg, State.loadLcInfo]

/-- A component that a command keeps is kept by the gated command. -/
theorem daiGate_keeps {α : Type} (f : State → α) (g : State → State) (h : f (g s) = f s) :
    f (daiGate g s) = f s := by
  unfold daiGate; split
  · exact h
  · rfl

/-- A component that every command keeps is kept by the command a value selects. -/
theorem daiCommand_keeps {α : Type} (f : State → α) (v : Word) (h1 : f (daiRead s) = f s)
    (h2 : f (daiWrite s) = f s) (h3 : f (daiDigest s) = f s) : f (daiCommand v s) = f s := by
  unfold daiCommand
  repeat' split
  all_goals first | assumption | rfl

/-- No operation changes the configuration. -/
@[simp] theorem after_cfg (i : Instr) : (after s i).cfg = s.cfg := by
  cases i <;> simp only [after]
  case daiRd => exact daiGate_keeps s State.cfg _ (by simp)
  case daiWr => exact daiGate_keeps s State.cfg _ (by simp)
  case daiDigest => exact daiGate_keeps s State.cfg _ (by simp)
  case wrDaiCmd => exact daiGate_keeps s State.cfg _ (daiCommand_keeps s State.cfg _ (by simp) (by simp) (by simp))
  all_goals (repeat' split) <;> simp

/-- No operation looks at the operations behind it. -/
@[simp] theorem after_inbox (i : Instr) : (after s i).inbox = s.inbox := by
  cases i <;> simp only [after]
  case daiRd => exact daiGate_keeps s State.inbox _ (by simp)
  case daiWr => exact daiGate_keeps s State.inbox _ (by simp)
  case daiDigest => exact daiGate_keeps s State.inbox _ (by simp)
  case wrDaiCmd =>
    exact daiGate_keeps s State.inbox _ (daiCommand_keeps s State.inbox _ (by simp) (by simp) (by simp))
  all_goals (repeat' split) <;> simp

/-- A DAI command's target is the partition of its address, and never the life-cycle partition. -/
theorem State.daiTarget_some (a p : Nat) (h : s.daiTarget a = some p) :
    s.cfg.partitionOf a = some p ∧ p ≠ s.cfg.lcPart := by
  unfold State.daiTarget at h
  cases hq : s.cfg.partitionOf a with
  | none => simp [hq] at h
  | some q =>
    by_cases hl : q = s.cfg.lcPart
    · simp [hq, Config.isLc, hl] at h
    · simp only [hq, Config.isLc, hl, decide_false, Bool.false_eq_true, if_false, Option.some.injEq] at h
      exact ⟨by rw [h], by rw [← h]; exact hl⟩

/-- What an accepted read can be: rejected, fatal, or published for a partition that is not the life-cycle one. -/
theorem daiRead_cases :
    daiRead s = (s.daiAccept .read).reject .access ∨
    (∃ p, s.cfg.partitionOf s.dai.address.toNat = some p ∧ p ≠ s.cfg.lcPart ∧
      s.isReadable p s.dai.address.toNat = true ∧
      (((s.cfg.daiValue s.image p s.dai.address.toNat).2 = .uncorrectable ∧
          daiRead s = (s.daiAccept .read).fatal .eccUncorrectable) ∨
        ((s.cfg.daiValue s.image p s.dai.address.toNat).2 ≠ .uncorrectable ∧
          daiRead s = (s.daiAccept .read).daiPublish p (s.cfg.daiValue s.image p s.dai.address.toNat).1
            (s.cfg.daiValue s.image p s.dai.address.toNat).2))) := by
  unfold daiRead
  dsimp only
  split
  · exact .inl rfl
  · rename_i p hp
    have ht := State.daiTarget_some _ _ _ hp
    simp only [State.daiAccept_cfg] at ht
    split
    · rename_i hr
      refine .inr ⟨p, ht.1, ht.2, hr, ?_⟩
      split
      · rename_i hu
        exact .inl ⟨hu, rfl⟩
      · rename_i hu
        exact .inr ⟨hu, rfl⟩
    · exact .inl rfl

/-- What an accepted write can be: rejected with AccessError or MacroError, or stored and waiting. -/
theorem daiWrite_cases :
    daiWrite s = (s.daiAccept .write).reject .access ∨ daiWrite s = (s.daiAccept .write).reject .macroError ∨
    (∃ p, s.cfg.partitionOf s.dai.address.toNat = some p ∧ p ≠ s.cfg.lcPart ∧
      s.writeRefusal p s.dai.address.toNat = none ∧
      daiWrite s = ((s.daiAccept .write).daiStore (s.daiProgram p s.dai.address.toNat)
        (s.cfg.daiAddress p s.dai.address.toNat) (s.cfg.daiWidth p s.dai.address.toNat)).daiWait p .writeWait) := by
  unfold daiWrite
  dsimp only
  split
  · exact .inl rfl
  · rename_i p hp
    have ht := State.daiTarget_some _ _ _ hp
    simp only [State.daiAccept_cfg] at ht
    split
    · rename_i code hc
      have : code = .access ∨ code = .macroError := by
        unfold State.writeRefusal at hc
        (repeat' split at hc) <;> simp_all
      rcases this with rfl | rfl
      · exact .inl rfl
      · exact .inr (.inl rfl)
    · rename_i hc
      exact .inr (.inr ⟨p, ht.1, ht.2, hc, rfl⟩)

/-- What an accepted digest command can be: rejected with AccessError or MacroError, or computed and waiting. -/
theorem daiDigest_cases :
    daiDigest s = (s.daiAccept .digest).reject .access ∨ daiDigest s = (s.daiAccept .digest).reject .macroError ∨
    (∃ p, s.cfg.partitionOf s.dai.address.toNat = some p ∧ p ≠ s.cfg.lcPart ∧ s.digestRefusal p = none ∧
      daiDigest s = ((s.daiAccept .digest).updPart p fun q =>
        { q with nextDigest := s.cfg.partDigest s.image p (s.storedBytes p) }).daiWait p .digestWait) := by
  unfold daiDigest
  dsimp only
  split
  · exact .inl rfl
  · rename_i p hp
    have ht := State.daiTarget_some _ _ _ hp
    simp only [State.daiAccept_cfg] at ht
    split
    · rename_i code hc
      have : code = .access ∨ code = .macroError := by
        unfold State.digestRefusal at hc
        (repeat' split at hc) <;> simp_all
      rcases this with rfl | rfl
      · exact .inl rfl
      · exact .inr (.inl rfl)
    · rename_i hc
      exact .inr (.inr ⟨p, ht.1, ht.2, hc, rfl⟩)

/-- A partition found by its address is a partition of the table that contains the address. -/
theorem partitionOf_some (c : Config) (a p : Nat) (h : c.partitionOf a = some p) :
    p < c.nPart ∧ inPart c p a := by
  unfold Config.partitionOf at h
  obtain ⟨hp, hc, _⟩ := List.findIdx?_eq_some_iff_getElem.1 h
  refine ⟨hp, ?_⟩
  simp only [PartDesc.contains, Bool.and_eq_true, decide_eq_true_eq] at hc
  simp only [inPart, Config.desc, List.getD_eq_getElem?_getD, List.getElem?_eq_getElem hp, Option.getD_some]
  exact hc

@[simp] theorem Lci.accumulate_fsm (c : ErrCode) (l : Lci) : (Lci.accumulate c l).fsm = l.fsm := by
  unfold Lci.accumulate; split <;> rfl
@[simp] theorem Lci.accumulate_buf (c : ErrCode) (l : Lci) : (Lci.accumulate c l).buf = l.buf := by
  unfold Lci.accumulate; split <;> rfl
@[simp] theorem Lci.accumulate_cursor (c : ErrCode) (l : Lci) : (Lci.accumulate c l).cursor = l.cursor := by
  unfold Lci.accumulate; split <;> rfl
@[simp] theorem Lci.accumulate_cb (c : ErrCode) (l : Lci) : (Lci.accumulate c l).cb = l.cb := by
  unfold Lci.accumulate; split <;> rfl
theorem Lci.accumulate_err (c : ErrCode) (l : Lci) : (Lci.accumulate c l).err = firstError l.err c := by
  unfold Lci.accumulate firstError; split <;> rfl

/-- An acknowledgement empties the callback. -/
@[simp] theorem State.lciAck_lci (ok : Bool) : (s.lciAck ok).lci = { s.lci with cb := none } := by
  unfold State.lciAck; split
  · simp
  · rename_i h; cases hl : s.lci; simp_all

/-- An acknowledgement is one output if a callback is held. -/
theorem State.lciAck_outputs (ok : Bool) (cb : CallbackId) (h : s.lci.cb = some cb) :
    (s.lciAck ok).outputs = s.outputs ++ [.lcAck cb ok] := by
  simp [State.lciAck, h]

/-- A life-cycle write-back changes no more of the LCI than its error. -/
theorem State.persistLci_lci : s.persistLci.lci =
    { s.lci with err := firstError s.lci.err (if s.persistOk then .noError else .macroError) } := by
  unfold State.persistLci Lci.accumulate firstError
  cases hl : s.lci with
  | mk f b c e k => cases s.persistOk <;> cases e <;> simp [hl]

@[simp] theorem daiDone_pending : (daiDone s).pending = s.pending.erase .daiDone := by
  unfold daiDone; dsimp only; (repeat' split) <;> simp

/-- A word programmed by the LCI, or nothing on a backend that is not writable. -/
theorem State.lciWriteWord_image : s.lciWriteWord.image =
    if s.cfg.backendWritable then
      (s.cfg.program16 s.image (s.cfg.lcAddress s.lci.cursor) (s.lci.buf.getD s.lci.cursor 0#16)).1
    else s.image := by
  simp only [State.lciWriteWord, State.schedule_image, State.mapLci_image, State.setImage_image, State.lciProgram]
  split <;> rfl

/-- What an operation can do to storage: nothing; a DAI write to its target; a digest commit; one life-cycle word. -/
theorem after_image (i : Instr) : (after s i).image = s.image ∨
    (((∃ x, i = .daiWr x) ∨ ∃ v, i = .wrDaiCmd v) ∧ s.dai.fsm = .idle ∧
      ∃ p, s.cfg.partitionOf s.dai.address.toNat = some p ∧ p ≠ s.cfg.lcPart ∧
        s.writeRefusal p s.dai.address.toNat = none ∧
        (after s i).image = (s.daiProgram p s.dai.address.toNat).1) ∨
    (i = .fireDaiDone ∧ s.dai.fsm = .digestWait ∧ ∃ p, s.dai.part = some p ∧
      (after s i).image = (s.cfg.program64 s.image (s.cfg.desc p).digestOffset (s.part p).nextDigest).1) ∨
    (((∃ st cnt cb, i = .lcprog st cnt cb) ∨ i = .fireLciWordDone) ∧ s.lci.fsm ≠ .error ∧ ∃ k v,
      (k = 0 ∨ k < s.cfg.lcWords) ∧ (after s i).image = (s.cfg.program16 s.image (s.cfg.lcAddress k) v).1) := by
  have hw : (daiWrite s).image = s.image ∨ ∃ p, s.cfg.partitionOf s.dai.address.toNat = some p ∧ p ≠ s.cfg.lcPart ∧
      s.writeRefusal p s.dai.address.toNat = none ∧
      (daiWrite s).image = (s.daiProgram p s.dai.address.toNat).1 := by
    rcases daiWrite_cases s with e | e | ⟨p, h1, h2, h3, e⟩
    · exact .inl (by simp [e])
    · exact .inl (by simp [e])
    · refine .inr ⟨p, h1, h2, h3, ?_⟩
      rw [e]
      unfold State.daiStore
      dsimp only
      split <;> simp
  cases i <;> simp only [after]
  case daiRd => exact .inl (daiGate_keeps s State.image _ (by simp))
  case daiDigest => exact .inl (daiGate_keeps s State.image _ (by simp))
  case daiWr x =>
    unfold daiGate
    split
    · rename_i hr
      have hi : s.dai.fsm = .idle := by simp [State.regwen] at hr; exact hr.2
      rcases hw with e | ⟨p, h⟩
      · exact .inl e
      · exact .inr (.inl ⟨.inl ⟨x, rfl⟩, hi, p, h⟩)
    · exact .inl rfl
  case wrDaiCmd v =>
    unfold daiGate
    split
    · rename_i hr
      have hi : s.dai.fsm = .idle := by simp [State.regwen] at hr; exact hr.2
      unfold daiCommand
      repeat' split
      · exact .inl (by simp)
      · rcases hw with e | ⟨p, h⟩
        · exact .inl e
        · exact .inr (.inl ⟨.inr ⟨v, rfl⟩, hi, p, h⟩)
      · exact .inl (by simp)
      · exact .inl rfl
    · exact .inl rfl
  case fireDaiDone =>
    unfold daiDone
    dsimp only
    split
    · exact .inl rfl
    · rename_i hf
      unfold State.commitDigest
      split
      · exact .inl rfl
      · rename_i p hp
        refine .inr (.inr (.inl ⟨by trivial, hf, p, hp, ?_⟩))
        unfold State.daiStore
        dsimp only
        split <;> simp [State.part]
    · exact .inl rfl
  case lcprog st cnt cb =>
    unfold lcprogAfter
    split
    · exact .inl rfl
    · exact .inl rfl
    · exact .inl rfl
    · exact .inl rfl
    · rename_i hf
      simp only [State.answer_image, State.lciStart, State.lciWriteWord_image]
      split
      · exact .inr (.inr (.inr ⟨.inl ⟨st, cnt, cb, rfl⟩, by simp [hf], 0, _, .inl rfl, rfl⟩))
      · exact .inl rfl
  case fireLciWordDone =>
    unfold lciWordDone
    dsimp only
    split
    · exact .inl (by simp)
    · rename_i hf
      split
      · rename_i hc
        rw [State.lciWriteWord_image]
        split
        · exact .inr (.inr (.inr ⟨.inr (by trivial), hf, s.lci.cursor + 1, _, .inr hc, rfl⟩))
        · exact .inl rfl
      · exact .inl (by simp)
  all_goals exact .inl (by (repeat' split) <;> simp)

/-- The slots after a store of the DAI: a persist failure overwrites a blank-write error. -/
theorem State.daiStore_err (r : Image × Bool) (a n : Nat) :
    (s.daiStore r a n).err = (if (s.backing.isSome && !Config.persistOk s.draws) then (if r.2 then s.err.set s.cfg.nPart .writeBlank else s.err).set s.cfg.nPart .macroError else if r.2 then s.err.set s.cfg.nPart .writeBlank else s.err) := by
  unfold State.daiStore State.persistDai State.persistOk State.persist
  cases hb : s.backing <;> cases hr : r.2 <;> cases hp : Config.persistOk s.draws <;> simp [hb, hp, Config.daiSlot, State.record, State.setImage]

/-- The interrupt bits after a store of the DAI. -/
theorem State.daiStore_intrState (r : Image × Bool) (a n : Nat) :
    (s.daiStore r a n).intrState = s.intrState ||| (if (s.backing.isSome && !Config.persistOk s.draws) then 2#2 else if r.2 then 2#2 else 0#2) := by
  unfold State.daiStore State.persistDai State.persistOk State.persist
  cases hb : s.backing <;> cases hr : r.2 <;> cases hp : Config.persistOk s.draws <;> simp [hb, hp, State.record, State.setImage, interruptOf, errorBit, BitVec.or_assoc]

/-- What taking `n` entropy words gives, and what it leaves in the pool. -/
theorem State.takeWords_eq (n : Nat) (s : State) :
    (State.takeWords n s).1 = (List.range n).map s.entropyWord ∧
    (State.takeWords n s).2 = { s with pool := { s.pool with words := s.pool.words.drop n }, draws := s.draws + (n - s.pool.words.length) } := by
  induction n generalizing s with
  | zero => simp [State.takeWords]
  | succ n ih =>
    simp only [State.takeWords]
    obtain ⟨h1, h2⟩ := ih s.takeWord.2
    rw [h1, h2]
    cases hw : s.pool.words with
    | nil =>
      simp only [State.takeWord, hw]
      constructor
      · rw [List.range_succ_eq_map]
        simp [State.entropyWord, hw, Nat.add_assoc, Nat.add_comm 1]
      · simp [hw, Nat.add_assoc, Nat.add_comm 1]
    | cons w ws =>
      simp only [State.takeWord, hw]
      constructor
      · rw [List.range_succ_eq_map]
        simp only [List.map_cons, List.map_map]
        congr 1
        · simp [State.entropyWord, hw]
        · apply List.map_congr_left
          intro i _
          simp [State.entropyWord, hw]
      · simp

end Sys2Proof.Machine
end

