-- ==== Sys2Proof/Laws/Memory.lean ====
section
/-! SUPPORT. The laws of the sparse memories: read after write, and every operation keeps the canonical form. -/

namespace Sys2Proof

/-- The canonical form read from the front: the first entry is not blank, lies below every other, and the rest is
canonical. -/
theorem Memory.wf_cons (a : Nat) (b : Byte) (m : Memory) :
    Memory.wf ((a, b) :: m) = true ↔ b ≠ Memory.blank ∧ (∀ e ∈ m, a < e.1) ∧ Memory.wf m = true := by
  induction m generalizing a b with
  | nil => simp [Memory.wf]
  | cons e m ih =>
    obtain ⟨c, x⟩ := e
    simp only [Memory.wf, Bool.and_eq_true, bne_iff_ne, ne_eq, decide_eq_true_eq, List.mem_cons,
      forall_eq_or_imp]
    constructor
    · rintro ⟨⟨h1, h2⟩, h3⟩
      refine ⟨h1, ⟨h2, fun e he => ?_⟩, h3⟩
      exact lt_trans h2 (((ih c x).1 h3).2.1 e he)
    · rintro ⟨h1, ⟨h2, _⟩, h3⟩
      exact ⟨⟨h1, h2⟩, h3⟩

/-- An address below every entry reads as blank. -/
theorem Memory.get_blank (m : Memory) (a : Nat) (h : ∀ e ∈ m, a < e.1) : m.get a = Memory.blank := by
  induction m with
  | nil => rfl
  | cons e m ih =>
    obtain ⟨c, x⟩ := e
    simp only [List.mem_cons, forall_eq_or_imp] at h
    have hne : a ≠ c := Nat.ne_of_lt h.1
    simp [Memory.get, hne, ih h.2]

/-- Read after write. -/
theorem Memory.get_set (m : Memory) (hm : m.wf = true) (a : Nat) (b : Byte) (c : Nat) :
    (m.set a b).get c = if c = a then b else m.get c := by
  induction m with
  | nil =>
    simp only [Memory.set]
    split
    · rename_i hb; simp [Memory.get, hb]
    · simp [Memory.get]
  | cons e m ih =>
    obtain ⟨d, x⟩ := e
    obtain ⟨_, hlt, hw⟩ := (Memory.wf_cons d x m).1 hm
    simp only [Memory.set]
    split
    · rename_i had
      split
      · rename_i hb
        have h : Memory.get ((d, x) :: m) a = Memory.blank := by
          apply Memory.get_blank
          simp only [List.mem_cons, forall_eq_or_imp]
          exact ⟨had, fun e he => lt_trans had (hlt e he)⟩
        split
        · rename_i hca; rw [hca, h, hb]
        · rfl
      · simp only [Memory.get]
    · rename_i had
      split
      · rename_i heq
        subst heq
        split
        · rename_i hb
          simp only [Memory.get]
          split
          · rename_i hca
            rw [hca, Memory.get_blank m a hlt, hb]
          · rfl
        · simp only [Memory.get]
          split <;> simp_all
      · rename_i hne
        simp only [Memory.get, ih hw]
        split
        · rename_i hcd
          have : c ≠ a := by omega
          simp [this]
        · rfl

/-- Every entry after a write was an entry before, or is the written one. -/
theorem Memory.mem_set (m : Memory) (a : Nat) (b : Byte) (e : Host.Cell) (h : e ∈ m.set a b) :
    e ∈ m ∨ e = (a, b) := by
  induction m with
  | nil =>
    simp only [Memory.set] at h
    split at h <;> simp_all
  | cons f m ih =>
    obtain ⟨d, x⟩ := f
    simp only [Memory.set] at h
    split at h
    · split at h
      · exact .inl h
      · simp only [List.mem_cons] at h ⊢
        tauto
    · split at h
      · split at h
        · exact .inl (List.mem_cons_of_mem _ h)
        · simp only [List.mem_cons] at h ⊢
          tauto
      · simp only [List.mem_cons] at h ⊢
        rcases h with h | h
        · exact .inl (.inl h)
        · rcases ih h with h | h
          · exact .inl (.inr h)
          · exact .inr h

/-- A write keeps the canonical form. -/
theorem Memory.set_wf (m : Memory) (hm : m.wf = true) (a : Nat) (b : Byte) : (m.set a b).wf = true := by
  induction m with
  | nil =>
    simp only [Memory.set]
    split
    · rfl
    · rename_i hb; simpa [Memory.wf] using hb
  | cons e m ih =>
    obtain ⟨d, x⟩ := e
    obtain ⟨hx, hlt, hw⟩ := (Memory.wf_cons d x m).1 hm
    simp only [Memory.set]
    split
    · rename_i had
      split
      · exact hm
      · rename_i hb
        refine (Memory.wf_cons a b _).2 ⟨hb, ?_, hm⟩
        simp only [List.mem_cons, forall_eq_or_imp]
        exact ⟨had, fun e he => lt_trans had (hlt e he)⟩
    · rename_i had
      split
      · rename_i heq
        split
        · exact hw
        · rename_i hb
          subst heq
          exact (Memory.wf_cons a b m).2 ⟨hb, hlt, hw⟩
      · rename_i hne
        refine (Memory.wf_cons d x _).2 ⟨hx, fun e he => ?_, ih hw⟩
        rcases Memory.mem_set m a b e he with h | h
        · exact hlt e h
        · rw [h]; exact lt_of_le_of_ne (Nat.le_of_not_lt had) (Ne.symm hne)

/-- A write below `n` keeps every entry below `n`. -/
theorem Memory.set_below (m : Memory) (n a : Nat) (b : Byte) (ha : a < n) (hm : m.below n = true) :
    (m.set a b).below n = true := by
  simp only [Memory.below, List.all_eq_true, decide_eq_true_eq] at hm ⊢
  intro e he
  rcases Memory.mem_set m a b e he with h | h
  · exact hm e h
  · rw [h]; exact ha

/-- Equal reads of canonical memories are equal memories. -/
theorem Memory.ext_get (m n : Memory) (hm : m.wf = true) (hn : n.wf = true) (h : ∀ a, m.get a = n.get a) : m = n := by
  induction m generalizing n with
  | nil =>
    cases n with
    | nil => rfl
    | cons e n =>
      obtain ⟨d, x⟩ := e
      obtain ⟨hx, _, _⟩ := (Memory.wf_cons d x n).1 hn
      have := h d
      simp only [Memory.get, if_true] at this
      exact absurd this.symm hx
  | cons e m ih =>
    obtain ⟨c, x⟩ := e
    obtain ⟨hx, hlt, hw⟩ := (Memory.wf_cons c x m).1 hm
    cases n with
    | nil =>
      have := h c
      simp only [Memory.get, if_true] at this
      exact absurd this hx
    | cons f n =>
      obtain ⟨d, y⟩ := f
      obtain ⟨hy, hlt', hw'⟩ := (Memory.wf_cons d y n).1 hn
      have hcd : c = d := by
        rcases Nat.lt_trichotomy c d with hc | hc | hc
        · have h1 : Memory.get ((d, y) :: n) c = Memory.blank := by
            apply Memory.get_blank
            simp only [List.mem_cons, forall_eq_or_imp]
            exact ⟨hc, fun e he => lt_trans hc (hlt' e he)⟩
          have h2 := h c
          rw [h1] at h2
          simp only [Memory.get, if_true] at h2
          exact absurd h2 hx
        · exact hc
        · have h1 : Memory.get ((c, x) :: m) d = Memory.blank := by
            apply Memory.get_blank
            simp only [List.mem_cons, forall_eq_or_imp]
            exact ⟨hc, fun e he => lt_trans hc (hlt e he)⟩
          have h2 := h d
          rw [h1] at h2
          simp only [Memory.get, if_true] at h2
          exact absurd h2.symm hy
      subst hcd
      have hxy : x = y := by
        have := h c
        simpa [Memory.get] using this
      subst hxy
      have : m = n := by
        apply ih n hw hw'
        intro a
        by_cases ha : a = c
        · subst ha
          rw [Memory.get_blank m a hlt, Memory.get_blank n a hlt']
        · have := h a
          simpa [Memory.get, ha] using this
      rw [this]

/-- Reading after writing a byte string. -/
theorem Memory.get_setBytes (m : Memory) (hm : m.wf = true) (a : Nat) (bs : List Byte) (c : Nat) :
    (m.setBytes a bs).get c = if a ≤ c ∧ c < a + bs.length then bs.getD (c - a) 0#8 else m.get c := by
  induction bs generalizing m a with
  | nil =>
    have : ¬ (a ≤ c ∧ c < a + ([] : List Byte).length) := by simp
    simp [Memory.setBytes]
  | cons b bs ih =>
    simp only [Memory.setBytes, ih _ (Memory.set_wf m hm a b), Memory.get_set m hm, List.length_cons]
    by_cases h1 : c = a
    · subst h1
      simp
    · by_cases h2 : a + 1 ≤ c ∧ c < a + 1 + bs.length
      · have h3 : a ≤ c ∧ c < a + (bs.length + 1) := by omega
        have h4 : c - a = (c - (a + 1)) + 1 := by omega
        simp [h2, h3, h4]
      · have h3 : ¬ (a ≤ c ∧ c < a + (bs.length + 1)) := by omega
        rw [if_neg h2, if_neg h1, if_neg h3]

/-- Writing a byte string keeps the canonical form. -/
theorem Memory.setBytes_wf (m : Memory) (hm : m.wf = true) (a : Nat) (bs : List Byte) :
    (m.setBytes a bs).wf = true := by
  induction bs generalizing m a with
  | nil => exact hm
  | cons b bs ih => exact ih _ (Memory.set_wf m hm a b) _

/-- Writing a byte string below `n` keeps every entry below `n`. -/
theorem Memory.setBytes_below (m : Memory) (n a : Nat) (bs : List Byte) (ha : a + bs.length ≤ n)
    (hm : m.below n = true) : (m.setBytes a bs).below n = true := by
  induction bs generalizing m a with
  | nil => exact hm
  | cons b bs ih =>
    simp only [List.length_cons] at ha
    exact ih (m.set a b) (a + 1) (by omega) (Memory.set_below m n a b (by omega) hm)

@[simp] theorem Memory.length_bytes (m : Memory) (a n : Nat) : (m.bytes a n).length = n := by
  simp [Memory.bytes]

/-- The copy of a range reads as the source inside it and as before outside. -/
theorem Memory.get_copyRange (dst src : Memory) (hd : dst.wf = true) (a n c : Nat) :
    (dst.copyRange src a n).get c = if a ≤ c ∧ c < a + n then src.get c else dst.get c := by
  simp only [Memory.copyRange, Memory.get_setBytes dst hd, Memory.length_bytes]
  split
  · rename_i h
    have h1 : c - a < n := by omega
    have h2 : a + (c - a) = c := by omega
    simp [Memory.bytes, List.getD_eq_getElem?_getD, h1, h2]
  · rfl

/-- A half-word write keeps the canonical form. -/
theorem Memory.setHalf_wf (m : Memory) (hm : m.wf = true) (a : Nat) (v : Half) : (m.setHalf a v).wf = true :=
  Memory.set_wf _ (Memory.set_wf m hm _ _) _ _

/-- A half-word write inside the region keeps every entry inside it. -/
theorem Memory.setHalf_below (m : Memory) (n a : Nat) (v : Half) (ha : a + 2 ≤ n) (hm : m.below n = true) :
    (m.setHalf a v).below n = true :=
  Memory.set_below _ n _ _ (by omega) (Memory.set_below m n _ _ (by omega) hm)

/-- Reading a byte after a half-word write. -/
theorem Memory.get_setHalf (m : Memory) (hm : m.wf = true) (a : Nat) (v : Half) (c : Nat) :
    (m.setHalf a v).get c =
      if c = a + 1 then v.extractLsb' 8 8 else if c = a then v.extractLsb' 0 8 else m.get c := by
  simp only [Memory.setHalf, Memory.get_set _ (Memory.set_wf m hm _ _), Memory.get_set m hm]

/-- Reading the half-word just written. -/
theorem Memory.half_setHalf (m : Memory) (hm : m.wf = true) (a : Nat) (v : Half) : (m.setHalf a v).half a = v := by
  simp only [Memory.half, Memory.get_setHalf m hm]
  simp only [if_true]
  rw [if_neg (by omega : ¬ a = a + 1)]
  ext i hi
  simp only [BitVec.getElem_append, BitVec.getElem_extractLsb']
  split
  · simp [BitVec.getLsbD_eq_getElem, hi]
  · have : 8 + (i - 8) = i := by omega
    simp [this, BitVec.getLsbD_eq_getElem, hi]

/-- A half-word elsewhere is not changed by a half-word write. -/
theorem Memory.half_setHalf_ne (m : Memory) (hm : m.wf = true) (a c : Nat) (v : Half) (h : c + 2 ≤ a ∨ a + 2 ≤ c) :
    (m.setHalf a v).half c = m.half c := by
  simp only [Memory.half, Memory.get_setHalf m hm]
  rw [if_neg (by omega), if_neg (by omega), if_neg (by omega), if_neg (by omega)]

end Sys2Proof
end

