-- ==== Sys2Proof/Laws/Files.lean ====
section
/-! SUPPORT. When a backing file loads, what image it gives, and what the file of the loaded device is. -/

namespace Sys2Proof.Machine

/-- A byte of the memory that holds a byte string. -/
theorem get_memoryOf (bs : List Byte) (k : Nat) : (memoryOf bs).get k = bs.getD k 0#8 := by
  rw [memoryOf, Memory.get_setBytes [] rfl]
  by_cases h : k < bs.length
  · simp [h]
  · simp [h, List.getD_eq_getElem?_getD, Memory.get, Memory.blank]

/-- The memory that holds a byte string is canonical and lists nothing past its end. -/
theorem memoryOf_wf (bs : List Byte) : (memoryOf bs).wf = true := Memory.setBytes_wf [] rfl 0 bs

theorem memoryOf_below (bs : List Byte) (n : Nat) (h : bs.length ≤ n) : (memoryOf bs).below n = true :=
  Memory.setBytes_below [] n 0 bs (by simpa using h) rfl

/-- Reading the memory of a byte string back. -/
theorem bytes_memoryOf (bs : List Byte) : (memoryOf bs).bytes 0 bs.length = bs := by
  apply List.ext_getElem
  · simp
  · intro i h1 h2
    simp [Memory.bytes, get_memoryOf, List.getD_eq_getElem?_getD, h2]

/-- A file loads exactly when it meets the rules, and its image is the one of its header and body. -/
theorem loadImage_ok (c : Config) (f : List Byte) (img : Image) :
    loadImage c f = .ok img ↔ FileRules c f ∧ img = imageOfFile c (le32At f 8) (le32At f 4) f := by
  unfold loadImage
  constructor
  · intro h
    split at h
    · simp at h
    rename_i hm
    split at h
    · simp at h
    rename_i hl hv
    repeat' split at h
    all_goals first | (simp at h; done) | skip
    rename_i h1 h2 h3 h4
    have hh : le32At f 4 = hl := by omega
    have hv' : (le32At f 8 = 1 ∧ hl = 16) ∨ (le32At f 8 = 2 ∧ hl = 40) := by
      unfold headerLength at hv
      split at hv
      · simp at hv; omega
      · split at hv
        · simp at hv; omega
        · simp at hv
    refine ⟨⟨by simpa [magicBytes] using hm, by rw [hh]; exact hv', by omega, fun a b => ?_, by omega⟩, ?_⟩
    · simp only [eccGeometryOk, fileEcc, a, b, ne_eq, not_false_eq_true, decide_true, Bool.and_self, Bool.not_true,
        Bool.false_or, Bool.not_eq_true', Bool.and_eq_false_iff, decide_eq_false_iff_not] at h3
      omega
    · rw [hh]; simpa using h.symm
  · rintro ⟨⟨h1, h2, h3, h4, h5⟩, rfl⟩
    rw [if_neg (by simpa [magicBytes] using h1)]
    have hv : headerLength (le32At f 8) = some (le32At f 4) := by
      unfold headerLength
      rcases h2 with ⟨a, b⟩ | ⟨a, b⟩ <;> simp [a, b]
    have hg : eccGeometryOk c f = true := by
      simp only [eccGeometryOk, fileEcc]
      by_cases a : le16At f 12 = 0
      · simp [a]
      · by_cases b : le32At f 20 = 0
        · simp [b]
        · simp [a, b, h4 a b]
    simp only [hv]
    rw [if_neg (by simp), if_neg (by omega), if_neg (by simp [hg]), if_neg (by omega)]

/-- The length of the ECC region of a file that loads. -/
theorem eccLength_image (c : Config) (f : List Byte) (h : FileRules c f) (v l : Nat) :
    eccLength c (imageOfFile c v l f) ≤ le32At f 20 := by
  have he : (imageOfFile c v l f).eccEnabled = fileEcc f := rfl
  unfold eccLength
  rw [he]
  cases hx : fileEcc f
  · simp
  · simp only [fileEcc, Bool.and_eq_true, decide_eq_true_eq] at hx
    rw [if_pos rfl, (h.ecc hx.1 hx.2).2.2]

/-- The file of a device right after its load is the file that was loaded. -/
theorem backingFile_loaded (c : Config) (f : List Byte) (img : Image) (h : loadImage c f = .ok img) :
    (State.constructed c img (some (backingOf c f img))).backingFile = some f := by
  obtain ⟨hf, rfl⟩ := (loadImage_ok c f img).mp h
  have hle := eccLength_image c f hf (le32At f 8) (le32At f 4)
  have hlen := hf.length
  have hdl := hf.dataLen.1
  generalize hE : eccLength c (imageOfFile c (le32At f 8) (le32At f 4) f) = e at hle
  have hd : (imageOfFile c (le32At f 8) (le32At f 4) f).data.bytes 0 c.otpDataSize =
      (f.drop (8 + le32At f 4)).take c.otpDataSize := by
    have hl : ((f.drop (8 + le32At f 4)).take c.otpDataSize).length = c.otpDataSize := by simp; omega
    have := bytes_memoryOf ((f.drop (8 + le32At f 4)).take c.otpDataSize)
    rwa [hl] at this
  have he : (imageOfFile c (le32At f 8) (le32At f 4) f).ecc.bytes 0 e =
      ((f.drop (8 + le32At f 4)).drop c.otpDataSize).take e := by
    by_cases hx : fileEcc f = true
    · have hee : e = c.otpDataSize / 2 := by rw [← hE]; simp [eccLength, imageOfFile, hx]
      have hl : (((f.drop (8 + le32At f 4)).drop c.otpDataSize).take e).length = e := by simp; omega
      have := bytes_memoryOf (((f.drop (8 + le32At f 4)).drop c.otpDataSize).take e)
      rw [hl] at this
      simpa [imageOfFile, hx, hee] using this
    · have hee : e = 0 := by rw [← hE]; simp [eccLength, imageOfFile, hx]
      subst hee; simp [Memory.bytes]
  simp only [State.backingFile, State.constructed, backingOf, Option.map_some, hE]
  rw [hd, he]
  congr 1
  rw [Nat.add_assoc, List.append_assoc, List.append_assoc]
  generalize 8 + le32At f 4 = m
  rw [show f.drop (m + (c.otpDataSize + e)) = ((f.drop m).drop c.otpDataSize).drop e by simp [Nat.add_assoc],
    List.take_append_drop, List.take_append_drop, List.take_append_drop]

end Sys2Proof.Machine
end

