-- ==== Sys2Proof/Laws/Layout.lean ====
section
/-! SUPPORT. What a valid partition table says of one partition and of two. -/

namespace Sys2Proof

open Sys2Proof.Machine

/-- A descriptor of the table meets the invariants of one descriptor. -/
theorem descOk_of_table (c : Config) (h : c.partTableOk = true) (p : Nat) (hp : p < c.nPart) :
    c.descOk (c.desc p) = true := by
  simp only [Config.partTableOk, Bool.and_eq_true, List.all_eq_true] at h
  have hm : c.desc p ∈ c.partTable := by
    simp only [Config.desc, List.getD_eq_getElem?_getD]
    have hl : p < c.partTable.length := hp
    rw [List.getElem?_eq_getElem hl, Option.getD_some]
    exact List.getElem_mem hl
  exact h.1.1.1.1.1.2 _ hm

/-- The invariants of one descriptor, spelled out (spec/20_memory.md R63). -/
theorem desc_facts (c : Config) (h : c.partTableOk = true) (p : Nat) (hp : p < c.nPart) :
    (c.desc p).byteSize % 4 = 0 ∧ (c.desc p).byteOffset + (c.desc p).byteSize ≤ c.otpDataSize ∧
      ¬ ((c.desc p).hwDigest = true ∧ (c.desc p).swDigest = true) ∧
      ((c.desc p).secret = true → (c.desc p).byteOffset % 8 = 0 ∧ (c.desc p).byteSize % 8 = 0) ∧
      ((c.desc p).hasDigest = true → (c.desc p).byteOffset % 8 = 0 ∧ (c.desc p).byteSize % 8 = 0 ∧
        8 ≤ (c.desc p).byteSize ∧ (c.desc p).digestOffset = (c.desc p).byteOffset + (c.desc p).byteSize - 8) := by
  have hd := descOk_of_table c h p hp
  simp only [Config.descOk, Bool.and_eq_true, decide_eq_true_eq, Bool.or_eq_true, Bool.not_eq_true',
    Bool.and_eq_false_iff] at hd
  obtain ⟨⟨⟨⟨⟨_, h1⟩, h2⟩, h3⟩, h4⟩, h5⟩ := hd
  refine ⟨h1, h2, ?_, fun hs => ?_, fun hs => ?_⟩
  · rintro ⟨a, b⟩
    rcases h3 with h3 | h3 <;> simp_all
  · rcases h4 with h4 | h4
    · simp [hs] at h4
    · exact h4
  · rcases h5 with h5 | h5
    · simp [hs] at h5
    · exact ⟨h5.1.1.1, h5.1.1.2, h5.1.2, h5.2⟩

/-- The life-cycle partition is one of the table. -/
theorem lcPart_lt (c : Config) (h : c.partTableOk = true) : c.lcPart < c.nPart := by
  simp only [Config.partTableOk, Bool.and_eq_true, decide_eq_true_eq] at h
  exact h.1.1.1.2

/-- The data region is a whole number of double words. -/
theorem otpDataSize_mod (c : Config) (h : c.partTableOk = true) : c.otpDataSize % 8 = 0 := by
  simp only [Config.partTableOk, Bool.and_eq_true, decide_eq_true_eq] at h
  exact h.1.1.1.1.1.1

theorem sortedDisjoint_pair (ds : List PartDesc) (h : sortedDisjoint ds = true) (i j : Nat) (hij : i < j)
    (hj : j < ds.length) :
    (ds.getD i emptyDesc).byteOffset + (ds.getD i emptyDesc).byteSize ≤ (ds.getD j emptyDesc).byteOffset := by
  induction ds generalizing i j with
  | nil => simp at hj
  | cons d ds ih =>
    cases ds with
    | nil => simp at hj; omega
    | cons e ds =>
      simp only [sortedDisjoint, Bool.and_eq_true, decide_eq_true_eq] at h
      obtain ⟨h1, h2⟩ := h
      cases j with
      | zero => omega
      | succ j =>
        cases i with
        | zero =>
          cases j with
          | zero => simpa using h1
          | succ j =>
            have := ih h2 0 (j + 1) (by omega) (by simpa using hj)
            simp only [List.getD_cons_zero, List.getD_cons_succ] at this ⊢
            omega
        | succ i =>
          have := ih h2 i j (by omega) (by simpa using hj)
          simpa using this

/-- Two partitions of the table have no address in common. -/
theorem parts_disjoint (c : Config) (h : c.partTableOk = true) (p q a : Nat) (hp : p < c.nPart) (hq : q < c.nPart)
    (hpq : p ≠ q) (ha : inPart c p a) : ¬ inPart c q a := by
  have hs : sortedDisjoint c.partTable = true := by
    simp only [Config.partTableOk, Bool.and_eq_true] at h
    exact h.1.1.1.1.2
  simp only [inPart, Config.desc] at ha ⊢
  rcases Nat.lt_or_gt_of_ne hpq with hlt | hlt
  · have := sortedDisjoint_pair _ hs p q hlt hq
    omega
  · have := sortedDisjoint_pair _ hs q p hlt hp
    omega

/-- The bytes a DAI access touches lie inside the data region, at an even address. -/
theorem daiRange_below (c : Config) (h : c.partTableOk = true) (p a : Nat) (hp : p < c.nPart) (ha : inPart c p a) :
    c.daiAddress p a + c.daiWidth p a ≤ c.otpDataSize ∧ c.daiAddress p a % 2 = 0 := by
  have h8 := otpDataSize_mod c h
  have hd := (desc_facts c h p hp).2.1
  unfold inPart at ha
  unfold Config.daiAddress Config.daiWidth alignDown
  split <;> omega

/-- The bytes a DAI access touches lie inside its partition, where partitions are 4-aligned. -/
theorem daiRange_inPart (c : Config) (h : c.partTableOk = true) (h4 : aligned4 c) (p a k : Nat) (hp : p < c.nPart)
    (ha : inPart c p a) (hk : c.daiAddress p a ≤ k ∧ k < c.daiAddress p a + c.daiWidth p a) : inPart c p k := by
  obtain ⟨d1, d2, d3, d4, d5⟩ := desc_facts c h p hp
  have ho : (c.desc p).byteOffset % 4 = 0 := by
    apply h4
    simp only [Config.desc, List.getD_eq_getElem?_getD]
    have hl : p < c.partTable.length := hp
    rw [List.getElem?_eq_getElem hl, Option.getD_some]
    exact List.getElem_mem hl
  unfold inPart at ha ⊢
  unfold Config.daiAddress Config.daiWidth alignDown at hk
  split at hk
  · rename_i hw
    have h8 : (c.desc p).byteOffset % 8 = 0 ∧ (c.desc p).byteSize % 8 = 0 := by
      simp only [Config.isWideGranule, Config.isDigestAddress, Bool.or_eq_true, Bool.and_eq_true] at hw
      rcases hw with hw | hw
      · exact d4 hw
      · exact ⟨(d5 hw.1).1, (d5 hw.1).2.1⟩
    omega
  · omega

/-- A life-cycle word lies inside the life-cycle partition. -/
theorem lcAddress_inPart (c : Config) (k : Nat) (hk : k < c.lcWords) (j : Nat)
    (hj : c.lcAddress k ≤ j ∧ j < c.lcAddress k + 2) : inPart c c.lcPart j := by
  simp only [Config.lcWords, Config.lcAddress, inPart] at *
  omega

/-- The digest slot of a partition lies inside it. -/
theorem digestSlot_inPart (c : Config) (h : c.partTableOk = true) (p k : Nat) (hp : p < c.nPart)
    (hd : (c.desc p).hasDigest = true) (hk : (c.desc p).digestOffset ≤ k ∧ k < (c.desc p).digestOffset + 8) :
    inPart c p k ∧ (c.desc p).digestOffset % 8 = 0 := by
  obtain ⟨_, _, _, _, d5⟩ := desc_facts c h p hp
  have := d5 hd
  unfold inPart
  omega

/-- One descriptor's check is the rules of one descriptor. -/
theorem descOk_iff (c : Config) (d : PartDesc) : c.descOk d = true ↔ DescRules c d := by
  constructor
  · intro h
    simp only [Config.descOk, PartDesc.fits, PartDesc.hasDigest, Bool.and_eq_true, decide_eq_true_eq, Bool.or_eq_true,
      Bool.not_eq_true', Bool.and_eq_false_iff, Bool.or_eq_false_iff] at h
    obtain ⟨⟨⟨⟨⟨h0, h1⟩, h2⟩, h3⟩, h4⟩, h5⟩ := h
    refine ⟨⟨h0.1.1, h0.1.2, h0.2⟩, h1, h2, ?_, fun hs => ?_, fun hs => ?_⟩
    · rintro ⟨a, b⟩
      rcases h3 with h3 | h3 <;> simp_all
    · exact h4.resolve_left (by simp [hs])
    · obtain ⟨⟨⟨a, b⟩, e⟩, f⟩ := h5.resolve_left (by rcases hs with hs | hs <;> simp [hs])
      exact ⟨a, b, e, f⟩
  · rintro ⟨⟨u1, u2, u3⟩, h1, h2, h3, h4, h5⟩
    cases hw : d.hwDigest <;> cases hs : d.swDigest <;> cases he : d.secret <;>
      simp_all [Config.descOk, PartDesc.fits, PartDesc.hasDigest]

/-- A sorted table from its first entry on. -/
theorem sortedDisjoint_iff (ds : List PartDesc) :
    sortedDisjoint ds = true ↔ ∀ i, i + 1 < ds.length →
      (ds.getD i emptyDesc).byteOffset + (ds.getD i emptyDesc).byteSize ≤ (ds.getD (i + 1) emptyDesc).byteOffset := by
  induction ds with
  | nil => simp [sortedDisjoint]
  | cons d ds ih =>
    cases ds with
    | nil => simp [sortedDisjoint]
    | cons e ds =>
      simp only [sortedDisjoint, Bool.and_eq_true, decide_eq_true_eq, ih]
      constructor
      · rintro ⟨h0, h1⟩ i hi
        cases i with
        | zero => simpa using h0
        | succ i => simpa using h1 i (by simpa using hi)
      · intro h
        refine ⟨by simpa using h 0 (by simp), fun i hi => ?_⟩
        simpa using h (i + 1) (by simpa using hi)

/-- The table's check is the rules of the table (spec/20_memory.md R62, R63). -/
theorem partTableOk_iff (c : Config) : c.partTableOk = true ↔ TableRules c := by
  have hl : c.nPart = c.partTable.length := rfl
  constructor
  · intro h
    have h' := h
    simp only [Config.partTableOk, PartDesc.hasDigest, Bool.and_eq_true, decide_eq_true_eq, List.all_eq_true,
      Bool.not_eq_true', Bool.or_eq_false_iff] at h'
    obtain ⟨⟨⟨⟨⟨⟨h1, h2⟩, h3⟩, h4⟩, h5⟩, h6⟩, h7⟩ := h'
    exact ⟨h1, fun d hd => (descOk_iff c d).mp (h2 d hd), fun p q hpq hq => sortedDisjoint_pair c.partTable h3 p q hpq hq,
      ⟨h4, h5.1, h5.2, h6⟩, fun p hp => ⟨(h7 p hp).1.1, (h7 p hp).1.2, (h7 p hp).2⟩⟩
  · rintro ⟨h1, h2, h3, ⟨h4, h5, h6, h7⟩, h8⟩
    have hs : sortedDisjoint c.partTable = true :=
      (sortedDisjoint_iff c.partTable).mpr fun i hi => h3 i (i + 1) (by omega) hi
    simp only [Config.partTableOk, PartDesc.hasDigest, Bool.and_eq_true, decide_eq_true_eq, List.all_eq_true,
      Bool.not_eq_true', Bool.or_eq_false_iff]
    exact ⟨⟨⟨⟨⟨⟨h1, fun d hd => (descOk_iff c d).mpr (h2 d hd)⟩, hs⟩, h4⟩, h5, h6⟩, h7⟩,
      fun p hp => ⟨⟨(h8 p hp).1, (h8 p hp).2.1⟩, (h8 p hp).2.2⟩⟩

end Sys2Proof
end

