-- ==== Sys2Proof/Laws/PowerUp.lean ====
section
/-! SUPPORT. What power-up does to one partition, and to all of them one after the other. -/

namespace Sys2Proof.Machine

variable (s : State)

/-- What the ECC pass over some granules leaves: with none uncorrectable, the corrected bytes and an untouched partition;
else a failed partition with its code. -/
theorem eccGranules_spec (p : Nat) (gs : List Nat) (w : Pass) (hw : w.alive = true) :
    ((∀ g ∈ gs, (w.state.cfg.eccCheck16 w.state.image g).2 ≠ .uncorrectable) →
      (gs.foldl (eccGranule p) w).alive = true ∧
      (gs.foldl (eccGranule p) w).copy =
        w.copy ++ gs.flatMap (fun g => halfBytes (w.state.cfg.eccCheck16 w.state.image g).1) ∧
      (gs.foldl (eccGranule p) w).state.parts = w.state.parts) ∧
    ((¬ ∀ g ∈ gs, (w.state.cfg.eccCheck16 w.state.image g).2 ≠ .uncorrectable) →
      (gs.foldl (eccGranule p) w).alive = false ∧
      (gs.foldl (eccGranule p) w).state.parts =
        w.state.parts.modify p (fun q => { q with failed := true, fsm := .error }) ∧
      (p < w.state.err.length → (gs.foldl (eccGranule p) w).state.errAt p = .eccUncorrectable)) := by
  induction gs generalizing w with
  | nil => simp [hw]
  | cons g gs ih =>
    obtain ⟨u, wc, al⟩ := w
    simp only at hw
    subst hw
    rw [List.foldl_cons]
    cases hr : (u.cfg.eccCheck16 u.image g).2 with
    | clean =>
      have e : eccGranule p ⟨u, wc, true⟩ g = ⟨u, wc ++ halfBytes (u.cfg.eccCheck16 u.image g).1, true⟩ := by
        simp [eccGranule, hr]
      have := ih ⟨u, wc ++ halfBytes (u.cfg.eccCheck16 u.image g).1, true⟩ rfl
      rw [e]
      simpa [hr] using this
    | corrected =>
      have e : eccGranule p ⟨u, wc, true⟩ g =
          ⟨u.record p .eccCorrectable, wc ++ halfBytes (u.cfg.eccCheck16 u.image g).1, true⟩ := by
        simp [eccGranule, hr]
      have := ih ⟨u.record p .eccCorrectable, wc ++ halfBytes (u.cfg.eccCheck16 u.image g).1, true⟩ rfl
      rw [e]
      simpa [hr] using this
    | uncorrectable =>
      have e : eccGranule p ⟨u, wc, true⟩ g =
          ⟨(u.updPart p fun q => { q with failed := true, fsm := .error }).record p .eccUncorrectable,
            wc ++ halfBytes (u.cfg.eccCheck16 u.image g).1, false⟩ := by
        simp [eccGranule, hr]
      have dead : ∀ (gs : List Nat) (w : Pass), w.alive = false → gs.foldl (eccGranule p) w = w := by
        intro gs
        induction gs with
        | nil => intros; rfl
        | cons g gs ih =>
          intro w h
          rw [List.foldl_cons, show eccGranule p w g = w by simp [eccGranule, h]]
          exact ih w h
      rw [e, dead _ _ rfl]
      refine ⟨fun h => absurd hr (h g (by simp)), fun _ => ⟨rfl, by simp, fun hp => ?_⟩⟩
      rw [State.errAt_record]
      simp [hp]

/-- The ECC pass of a partition without an uncorrectable granule. -/
theorem eccPass_clean (p : Nat) (h : s.readsClean p) :
    (eccPass p s).alive = true ∧ (eccPass p s).copy = s.correctedBytes p ∧ (eccPass p s).state.parts = s.parts := by
  have := (eccGranules_spec p (s.cfg.desc p).granules ⟨s, [], true⟩ rfl).1 h
  exact ⟨this.1, this.2.1.trans (by simp [State.correctedBytes]), this.2.2⟩

/-- The ECC pass of a partition with an uncorrectable granule. -/
theorem eccPass_dirty (p : Nat) (h : ¬ s.readsClean p) :
    (eccPass p s).alive = false ∧
      (eccPass p s).state.parts = s.parts.modify p (fun q => { q with failed := true, fsm := .error }) ∧
      (p < s.err.length → (eccPass p s).state.errAt p = .eccUncorrectable) :=
  (eccGranules_spec p (s.cfg.desc p).granules ⟨s, [], true⟩ rfl).2 h

/-- One granule touches no other partition and no other slot. -/
theorem eccGranule_other (p g q : Nat) (wc : List Byte) (al : Bool) (h : q ≠ p) :
    (eccGranule p ⟨s, wc, al⟩ g).state.part q = s.part q ∧ (eccGranule p ⟨s, wc, al⟩ g).state.errAt q = s.errAt q := by
  unfold eccGranule
  dsimp only
  repeat' split
  all_goals
    constructor <;>
      simp [State.part, State.errAt, List.getD_eq_getElem?_getD, List.getElem?_modify, List.getElem?_set, Ne.symm h]

/-- A loaded partition touches no other partition and no other slot. -/
theorem loadPartition_other (p q : Nat) (wc : List Byte) (h : q ≠ p) :
    (s.loadPartition p wc).part q = s.part q ∧ (s.loadPartition p wc).errAt q = s.errAt q := by
  unfold State.loadPartition State.verifyBuffered
  dsimp only
  repeat' split
  all_goals
    constructor <;>
      simp [State.part, State.errAt, List.getD_eq_getElem?_getD, List.getElem?_modify, List.getElem?_set, Ne.symm h]

/-- The counts of partitions and slots stay. -/
theorem loadPartition_lengths (p : Nat) (wc : List Byte) :
    (s.loadPartition p wc).parts.length = s.parts.length ∧ (s.loadPartition p wc).err.length = s.err.length := by
  unfold State.loadPartition State.verifyBuffered
  dsimp only
  repeat' split
  all_goals simp

/-- Power-up of one partition touches no other. -/
theorem powerupPartition_other (p q : Nat) (h : q ≠ p) :
    (powerupPartition p s).1.part q = s.part q ∧ (powerupPartition p s).1.errAt q = s.errAt q := by
  unfold powerupPartition
  dsimp only
  have he : (eccPass p s).state.part q = s.part q ∧ (eccPass p s).state.errAt q = s.errAt q := by
    unfold eccPass
    generalize (s.cfg.desc p).granules = gs
    suffices ∀ w : Pass, (gs.foldl (eccGranule p) w).state.part q = w.state.part q ∧
        (gs.foldl (eccGranule p) w).state.errAt q = w.state.errAt q from this ⟨s, [], true⟩
    intro w
    induction gs generalizing w with
    | nil => exact ⟨rfl, rfl⟩
    | cons g gs ih =>
      obtain ⟨a, b⟩ := ih (eccGranule p w g)
      obtain ⟨c, d⟩ := eccGranule_other w.state p g q w.copy w.alive h
      exact ⟨a.trans c, b.trans d⟩
  split
  · obtain ⟨a, b⟩ := loadPartition_other (eccPass p s).state p q (eccPass p s).copy h
    exact ⟨a.trans he.1, b.trans he.2⟩
  · exact he

/-- Power-up of one partition keeps the counts, the configuration and the image. -/
theorem powerupPartition_keeps (p : Nat) :
    (powerupPartition p s).1.parts.length = s.parts.length ∧ (powerupPartition p s).1.err.length = s.err.length ∧
      (powerupPartition p s).1.cfg = s.cfg ∧ (powerupPartition p s).1.image = s.image := by
  have g1 : ∀ (s : State) (p g : Nat) (wc : List Byte) (al : Bool),
      (eccGranule p ⟨s, wc, al⟩ g).state.parts.length = s.parts.length := by
    intro s p g wc al; unfold eccGranule; dsimp only; (repeat' split) <;> simp
  have g2 : ∀ (s : State) (p g : Nat) (wc : List Byte) (al : Bool),
      (eccGranule p ⟨s, wc, al⟩ g).state.err.length = s.err.length := by
    intro s p g wc al; unfold eccGranule; dsimp only; (repeat' split) <;> simp
  have e1 := eccPass_keeps s (fun t => t.parts.length) g1 p
  have e2 := eccPass_keeps s (fun t => t.err.length) g2 p
  have e3 := eccPass_keeps s State.cfg (fun s p g wc al => eccGranule_cfg s p g wc al) p
  have e4 := eccPass_keeps s State.image (fun s p g wc al => eccGranule_image s p g wc al) p
  unfold powerupPartition
  dsimp only at e1 e2 ⊢
  split
  · obtain ⟨l1, l2⟩ := loadPartition_lengths (eccPass p s).state p (eccPass p s).copy
    exact ⟨l1.trans e1, l2.trans e2, by simp [e3], by simp [e4]⟩
  · exact ⟨e1, e2, e3, e4⟩

/-- Each partition is powered up on its own: for a partition of the table there is a state that agrees with the one before
power-up in everything that partition's power-up looks at, and whose power-up gives the result. -/
theorem powerupParts_one (p : Nat) (hp : p < s.cfg.nPart) :
    ∃ u : State, u.cfg = s.cfg ∧ u.image = s.image ∧ u.part p = s.part p ∧ u.errAt p = s.errAt p ∧
      u.parts.length = s.parts.length ∧ u.err.length = s.err.length ∧
      (powerupParts s).1.part p = (powerupPartition p u).1.part p ∧
      (powerupParts s).1.errAt p = (powerupPartition p u).1.errAt p ∧
      (powerupParts s).2.getD p [] = (powerupPartition p u).2 := by
  unfold powerupParts
  let f := fun (acc : State × List (List Byte)) (p : Nat) =>
    let r := powerupPartition p acc.1; (r.1, acc.2 ++ [r.2])
  suffices ∀ n, (((List.range n).foldl f (s, [])).1.cfg = s.cfg ∧ ((List.range n).foldl f (s, [])).1.image = s.image ∧
      ((List.range n).foldl f (s, [])).1.parts.length = s.parts.length ∧
      ((List.range n).foldl f (s, [])).1.err.length = s.err.length ∧
      ((List.range n).foldl f (s, [])).2.length = n ∧
      (∀ q, n ≤ q → ((List.range n).foldl f (s, [])).1.part q = s.part q ∧
        ((List.range n).foldl f (s, [])).1.errAt q = s.errAt q) ∧
      ∀ p, p < n → ∃ u : State, u.cfg = s.cfg ∧ u.image = s.image ∧ u.part p = s.part p ∧ u.errAt p = s.errAt p ∧
        u.parts.length = s.parts.length ∧ u.err.length = s.err.length ∧
        ((List.range n).foldl f (s, [])).1.part p = (powerupPartition p u).1.part p ∧
        ((List.range n).foldl f (s, [])).1.errAt p = (powerupPartition p u).1.errAt p ∧
        ((List.range n).foldl f (s, [])).2.getD p [] = (powerupPartition p u).2) from (this s.cfg.nPart).2.2.2.2.2.2 p hp
  intro n
  induction n with
  | zero => exact ⟨rfl, rfl, rfl, rfl, rfl, fun q _ => ⟨rfl, rfl⟩, fun p h => absurd h (by omega)⟩
  | succ n ih =>
    rw [List.range_succ, List.foldl_append, List.foldl_cons, List.foldl_nil]
    generalize (List.range n).foldl f (s, []) = acc at ih ⊢
    obtain ⟨u, wcs⟩ := acc
    simp only at ih
    obtain ⟨h1, h2, h3, h4, h5, h6, h7⟩ := ih
    obtain ⟨k1, k2, k3, k4⟩ := powerupPartition_keeps u n
    simp only [f]
    refine ⟨k3.trans h1, k4.trans h2, k1.trans h3, k2.trans h4, by simp [h5], fun q hq => ?_, fun p hpn => ?_⟩
    · obtain ⟨a, b⟩ := powerupPartition_other u n q (by omega)
      obtain ⟨c, d⟩ := h6 q (by omega)
      exact ⟨a.trans c, b.trans d⟩
    · by_cases hpe : p = n
      · subst hpe
        obtain ⟨c, d⟩ := h6 p (le_refl p)
        exact ⟨u, h1, h2, c, d, h3, h4, rfl, rfl, by simp [List.getD_eq_getElem?_getD, h5]⟩
      · obtain ⟨v, g1, g2, g3, g4, g5, g6, g7, g8, g9⟩ := h7 p (by omega)
        obtain ⟨a, b⟩ := powerupPartition_other u n p hpe
        refine ⟨v, g1, g2, g3, g4, g5, g6, a.trans g7, b.trans g8, ?_⟩
        rw [← g9]
        simp only [List.getD_eq_getElem?_getD]
        rw [List.getElem?_append_left (by omega)]

/-- What loading makes of the partition itself: digest, buffer, lock, check and state, by its kind. -/
def loadedPart (c : Config) (img : Image) (p : Nat) (wc : List Byte) (q : Part) : Part :=
  let d := le64 wc ((c.desc p).byteSize - 8)
  let q1 := if (c.desc p).hasDigest then { q with digest := d } else q
  let q2 := if (c.desc p).buffered then { q1 with buffer := wc } else q1
  let q3 :=
    if (c.desc p).hwDigest && (c.desc p).buffered then
      if d = 0#64 then q2
      else if c.partDigest img p wc = d then { q2 with locked := true }
      else { q2 with failed := true, locked := true, fsm := .error }
    else if (c.desc p).hasDigest then { q2 with locked := decide (d ≠ 0#64) }
    else q2
  if q3.fsm = .error then q3 else { q3 with fsm := .idle }

/-- What loading does to the digest and the buffer, and what it leaves alone. -/
theorem loadedPart_fields (c : Config) (img : Image) (p : Nat) (wc : List Byte) (q : Part) :
    (loadedPart c img p wc q).digest =
        (if (c.desc p).hasDigest then le64 wc ((c.desc p).byteSize - 8) else q.digest) ∧
      (loadedPart c img p wc q).buffer = (if (c.desc p).buffered then wc else q.buffer) ∧
      (loadedPart c img p wc q).readLock = q.readLock ∧ (loadedPart c img p wc q).writeLock = q.writeLock ∧
      (loadedPart c img p wc q).nextDigest = q.nextDigest := by
  unfold loadedPart
  generalize le64 wc ((c.desc p).byteSize - 8) = d
  generalize c.partDigest img p wc = e
  cases hh : (c.desc p).hwDigest <;> cases hs : (c.desc p).swDigest <;> cases hb : (c.desc p).buffered <;>
    by_cases h0 : d = 0#64 <;> by_cases he : e = d <;> by_cases hf : q.fsm = .error <;>
    simp [PartDesc.hasDigest, hh, hs, h0, he, hf]

/-- The partition after its load. -/
theorem loadPartition_self (p : Nat) (wc : List Byte) (hp : p < s.parts.length)
    (hx : ¬ ((s.cfg.desc p).hwDigest = true ∧ (s.cfg.desc p).swDigest = true)) :
    (s.loadPartition p wc).part p = loadedPart s.cfg s.image p wc (s.part p) := by
  cases hh : (s.cfg.desc p).hwDigest <;> cases hs : (s.cfg.desc p).swDigest <;> cases hb : (s.cfg.desc p).buffered <;>
    simp [hh, hs] at hx <;>
    simp [State.loadPartition, loadedPart, State.verifyBuffered, State.part_updPart, hh, hs, hb, hp, PartDesc.hasDigest]
  · have hrec (e : ErrCode) (u : State) : (u.record p e).part p = u.part p := by
      rfl
    split
    · simp [State.part_updPart, hp]
    · split <;> simp [State.part_updPart, hp, hrec]

/-- CheckFail in the slot of a partition whose stored digest is not the computed one. -/
theorem loadPartition_checkFail (p : Nat) (wc : List Byte) (hp : p < s.parts.length) (he : p < s.err.length)
    (hx : ¬ ((s.cfg.desc p).hwDigest = true ∧ (s.cfg.desc p).swDigest = true))
    (hh : (s.cfg.desc p).hwDigest = true) (hb : (s.cfg.desc p).buffered = true)
    (h0 : le64 wc ((s.cfg.desc p).byteSize - 8) ≠ 0#64)
    (hd : s.cfg.partDigest s.image p wc ≠ le64 wc ((s.cfg.desc p).byteSize - 8)) :
    (s.loadPartition p wc).errAt p = .checkFail := by
  have hs : (s.cfg.desc p).swDigest = false := by simpa [hh] using hx
  have hv (u : State) (he : p < u.err.length) (h1 : (u.part p).digest ≠ 0#64)
      (h2 : u.cfg.partDigest u.image p (u.part p).buffer ≠ (u.part p).digest) :
      ((u.verifyBuffered p).updPart p fun q => if q.fsm = .error then q else { q with fsm := .idle }).errAt p =
        .checkFail := by
    rw [State.verifyBuffered, if_neg h1, if_neg h2]
    show ((State.updPart p _ u).record p .checkFail).errAt p = _
    rw [State.errAt_record]; simp [he]
  simp only [State.loadPartition, hh, hs, hb, PartDesc.hasDigest, Bool.true_or, if_true, Bool.false_eq_true, if_false]
  apply hv
  · simpa using he
  · simpa [State.part_updPart, hp] using h0
  · simpa [State.part_updPart, hp] using hd

/-- Power-up of one partition that reads without an uncorrectable granule. -/
theorem powerupPartition_clean (p : Nat) (hp : p < s.parts.length) (h : s.readsClean p)
    (hx : ¬ ((s.cfg.desc p).hwDigest = true ∧ (s.cfg.desc p).swDigest = true)) :
    (powerupPartition p s).2 = s.correctedBytes p ∧
      (powerupPartition p s).1.part p = loadedPart s.cfg s.image p (s.correctedBytes p) (s.part p) ∧
      (p < s.err.length → (s.cfg.desc p).hwDigest = true → (s.cfg.desc p).buffered = true →
        le64 (s.correctedBytes p) ((s.cfg.desc p).byteSize - 8) ≠ 0#64 →
        s.cfg.partDigest s.image p (s.correctedBytes p) ≠ le64 (s.correctedBytes p) ((s.cfg.desc p).byteSize - 8) →
        (powerupPartition p s).1.errAt p = .checkFail) := by
  obtain ⟨h1, h2, h3⟩ := eccPass_clean s p h
  have e2 := eccPass_keeps s (fun t => t.err.length) (by
    intro s p g wc al; unfold eccGranule; dsimp only; (repeat' split) <;> simp) p
  have e3 := eccPass_keeps s State.cfg (fun s p g wc al => eccGranule_cfg s p g wc al) p
  have e4 := eccPass_keeps s State.image (fun s p g wc al => eccGranule_image s p g wc al) p
  have hpart : (eccPass p s).state.part p = s.part p := by simp only [State.part, h3]
  unfold powerupPartition
  simp only [h1, if_true, h2]
  refine ⟨trivial, ?_, fun he hh hb h0 hd => ?_⟩
  · rw [loadPartition_self _ p _ (by rw [h3]; exact hp) (by rw [e3]; exact hx), e3, e4, hpart]
  · exact loadPartition_checkFail _ p _ (by rw [h3]; exact hp) (e2 ▸ he) (by rw [e3]; exact hx) (by rw [e3]; exact hh)
      (by rw [e3]; exact hb) (by rw [e3]; exact h0) (by rw [e3, e4]; exact hd)

/-- Power-up of one partition that reads with an uncorrectable granule. -/
theorem powerupPartition_dirty (p : Nat) (hp : p < s.parts.length) (h : ¬ s.readsClean p) :
    (powerupPartition p s).1.part p = { s.part p with failed := true, fsm := .error } ∧
      (p < s.err.length → (powerupPartition p s).1.errAt p = .eccUncorrectable) := by
  obtain ⟨h1, h2, h3⟩ := eccPass_dirty s p h
  unfold powerupPartition
  simp only [h1, Bool.false_eq_true, if_false]
  refine ⟨?_, h3⟩
  simp only [State.part, h2, List.getD_eq_getElem?_getD, List.getElem?_modify, if_true]
  rw [List.getElem?_eq_getElem hp]; rfl

/-- The error interrupt and the two alerts of a state, as bits. -/
def State.flags (s : State) : Bool × Bool × Bool :=
  (s.intrState.getLsbD 1, s.alertLatch.getLsbD 0, s.alertLatch.getLsbD 1)

theorem State.flags_record (p : Nat) (e : ErrCode) : (s.record p e).flags =
    (s.flags.1 || decide (e ≠ .noError), s.flags.2.1 || (alertOf e).getLsbD 0, s.flags.2.2 || (alertOf e).getLsbD 1) := by
  cases e <;> simp [State.flags, State.record, interruptOf, errorBit, alertOf, macroAlert, checkAlert] <;> decide

@[simp] theorem State.flags_updPart (p : Nat) (f : Part → Part) : (s.updPart p f).flags = s.flags := rfl

/-- The severity of a granule in storage. -/
def State.severity (s : State) (g : Nat) : Severity := (s.cfg.eccCheck16 s.image g).2

@[simp] theorem State.severity_record (p g : Nat) (e : ErrCode) : (s.record p e).severity g = s.severity g := rfl

/-- What the ECC pass over some granules raises, and the code it leaves in the slot when none is uncorrectable. -/
theorem eccGranules_flags (p : Nat) (gs : List Nat) (w : Pass) (hw : w.alive = true) :
    ((gs.foldl (eccGranule p) w).state.flags =
      (w.state.flags.1 || gs.any (fun g => decide (w.state.severity g ≠ .clean)),
        w.state.flags.2.1 || gs.any (fun g => decide (w.state.severity g = .uncorrectable)), w.state.flags.2.2)) ∧
    ((∀ g ∈ gs, w.state.severity g ≠ .uncorrectable) → p < w.state.err.length →
      (gs.foldl (eccGranule p) w).state.errAt p =
        if gs.any (fun g => decide (w.state.severity g = .corrected)) then .eccCorrectable else w.state.errAt p) := by
  induction gs generalizing w with
  | nil => simp [State.flags]
  | cons g gs ih =>
    obtain ⟨u, wc, al⟩ := w
    simp only at hw
    subst hw
    rw [List.foldl_cons]
    cases hr : (u.cfg.eccCheck16 u.image g).2 with
    | clean =>
      have e : eccGranule p ⟨u, wc, true⟩ g = ⟨u, wc ++ halfBytes (u.cfg.eccCheck16 u.image g).1, true⟩ := by
        simp [eccGranule, hr]
      rw [e]
      have := ih ⟨u, wc ++ halfBytes (u.cfg.eccCheck16 u.image g).1, true⟩ rfl
      simpa [State.severity, hr] using this
    | corrected =>
      have e : eccGranule p ⟨u, wc, true⟩ g =
          ⟨u.record p .eccCorrectable, wc ++ halfBytes (u.cfg.eccCheck16 u.image g).1, true⟩ := by
        simp [eccGranule, hr]
      rw [e]
      obtain ⟨h1, h2⟩ := ih ⟨u.record p .eccCorrectable, wc ++ halfBytes (u.cfg.eccCheck16 u.image g).1, true⟩ rfl
      simp only [State.flags_record] at h1
      have hs : u.severity g = .corrected := hr
      refine ⟨by rw [h1]; simp [hs, alertOf]; rfl, fun hn hp => ?_⟩
      rw [h2 (fun x hx => hn x (by simp [hx])) (by simpa using hp), State.errAt_record]
      simp [hs, hp]
    | uncorrectable =>
      have e : eccGranule p ⟨u, wc, true⟩ g =
          ⟨(u.updPart p fun q => { q with failed := true, fsm := .error }).record p .eccUncorrectable,
            wc ++ halfBytes (u.cfg.eccCheck16 u.image g).1, false⟩ := by
        simp [eccGranule, hr]
      have dead : ∀ (gs : List Nat) (w : Pass), w.alive = false → gs.foldl (eccGranule p) w = w := by
        intro gs
        induction gs with
        | nil => intros; rfl
        | cons g gs ih =>
          intro w h
          rw [List.foldl_cons, show eccGranule p w g = w by simp [eccGranule, h]]
          exact ih w h
      rw [e, dead _ _ rfl]
      refine ⟨?_, fun h => absurd hr (h g (by simp))⟩
      simp [State.flags_record, State.severity, hr, alertOf, macroAlert]

/-- What loading a partition raises: the check alert and the error interrupt exactly on a wrong digest. -/
theorem loadPartition_flags (p : Nat) (wc : List Byte) (hp : p < s.parts.length)
    (hx : ¬ ((s.cfg.desc p).hwDigest = true ∧ (s.cfg.desc p).swDigest = true)) :
    let bad := (s.cfg.desc p).hwDigest && (s.cfg.desc p).buffered &&
      decide (le64 wc ((s.cfg.desc p).byteSize - 8) ≠ 0#64) &&
      decide (s.cfg.partDigest s.image p wc ≠ le64 wc ((s.cfg.desc p).byteSize - 8))
    (s.loadPartition p wc).flags = (s.flags.1 || bad, s.flags.2.1, s.flags.2.2 || bad) ∧
      (bad = false → (s.loadPartition p wc).errAt p = s.errAt p) := by
  have hv (u : State) : (u.verifyBuffered p).flags =
      (let bad := decide ((u.part p).digest ≠ 0#64) &&
        decide (u.cfg.partDigest u.image p (u.part p).buffer ≠ (u.part p).digest)
      (u.flags.1 || bad, u.flags.2.1, u.flags.2.2 || bad)) ∧
      ((decide ((u.part p).digest ≠ 0#64) &&
        decide (u.cfg.partDigest u.image p (u.part p).buffer ≠ (u.part p).digest)) = false →
        (u.verifyBuffered p).err = u.err) := by
    unfold State.verifyBuffered
    by_cases h1 : (u.part p).digest = 0#64
    · simp [h1, State.flags]
    · by_cases h2 : u.cfg.partDigest u.image p (u.part p).buffer = (u.part p).digest
      · simp [h1, h2, State.flags]
      · simp [h1, h2, State.flags_record, alertOf, checkAlert]
  cases hh : (s.cfg.desc p).hwDigest <;> cases hs : (s.cfg.desc p).swDigest <;> cases hb : (s.cfg.desc p).buffered <;>
    simp [hh, hs] at hx <;>
    simp [State.loadPartition, hh, hs, hb, PartDesc.hasDigest, State.errAt]
  generalize hu : State.updPart p (fun q => { q with buffer := wc }) (State.updPart p (fun q =>
    { q with digest := le64 wc ((s.cfg.desc p).byteSize - 8) }) s) = u
  have e1 : (u.part p).digest = le64 wc ((s.cfg.desc p).byteSize - 8) ∧ (u.part p).buffer = wc := by
    subst hu; simp [State.part_updPart, hp]
  have e2 : u.cfg = s.cfg ∧ u.image = s.image ∧ u.flags = s.flags ∧ u.err = s.err := by subst hu; simp
  obtain ⟨h1, h2⟩ := hv u
  rw [e1.1, e1.2, e2.1, e2.2.1, e2.2.2.1] at h1
  rw [e1.1, e1.2, e2.1, e2.2.1, e2.2.2.2] at h2
  refine ⟨by simpa using h1, fun hb => ?_⟩
  rw [h2 (by simpa [Classical.or_iff_not_imp_left] using hb)]

/-- What power-up of one partition raises, and the code it leaves in its slot. -/
theorem powerupPartition_flags (p : Nat) (hp : p < s.parts.length)
    (hx : ¬ ((s.cfg.desc p).hwDigest = true ∧ (s.cfg.desc p).swDigest = true)) :
    ((powerupPartition p s).1.flags.1 = true ↔
      s.flags.1 = true ∨ ¬ s.readsClean p ∨ s.corrects p ∨ s.failsCheck p) ∧
    ((powerupPartition p s).1.flags.2.1 = true ↔ s.flags.2.1 = true ∨ ¬ s.readsClean p) ∧
    ((powerupPartition p s).1.flags.2.2 = true ↔ s.flags.2.2 = true ∨ s.failsCheck p) ∧
    (s.readsClean p → ¬ s.failsCheck p → p < s.err.length →
      (s.corrects p → (powerupPartition p s).1.errAt p = .eccCorrectable) ∧
      (¬ s.corrects p → (powerupPartition p s).1.errAt p = s.errAt p)) := by
  obtain ⟨f1, f2⟩ := eccGranules_flags p (s.cfg.desc p).granules ⟨s, [], true⟩ rfl
  have hcor : ((s.cfg.desc p).granules.any fun g => decide (s.severity g = .corrected)) = true ↔ s.corrects p := by
    simp only [List.any_eq_true, decide_eq_true_eq]; exact Iff.rfl
  have hunc : ((s.cfg.desc p).granules.any fun g => decide (s.severity g = .uncorrectable)) = true ↔
      ¬ s.readsClean p := by
    simp only [List.any_eq_true, decide_eq_true_eq, State.readsClean]
    push Not
    exact Iff.rfl
  have hany : ((s.cfg.desc p).granules.any fun g => decide (s.severity g ≠ .clean)) = true ↔
      ¬ s.readsClean p ∨ s.corrects p := by
    rw [← hcor, ← hunc]
    simp only [List.any_eq_true, decide_eq_true_eq]
    constructor
    · rintro ⟨g, hg, hs⟩
      cases hv : s.severity g with
      | clean => exact absurd hv hs
      | corrected => exact .inr ⟨g, hg, hv⟩
      | uncorrectable => exact .inl ⟨g, hg, hv⟩
    · rintro (⟨g, hg, hs⟩ | ⟨g, hg, hs⟩) <;> exact ⟨g, hg, by rw [hs]; decide⟩
  simp only at f1 f2
  change (eccPass p s).state.flags = _ at f1
  change _ → _ → (eccPass p s).state.errAt p = _ at f2
  by_cases h : s.readsClean p
  · obtain ⟨h1, h2, h3⟩ := eccPass_clean s p h
    have e2 := eccPass_keeps s (fun t => t.err.length) (by
      intro s p g wc al; unfold eccGranule; dsimp only; (repeat' split) <;> simp) p
    have e3 := eccPass_keeps s State.cfg (fun s p g wc al => eccGranule_cfg s p g wc al) p
    have e4 := eccPass_keeps s State.image (fun s p g wc al => eccGranule_image s p g wc al) p
    have hl := loadPartition_flags (eccPass p s).state p (s.correctedBytes p) (by rw [h3]; exact hp) (by rw [e3]; exact hx)
    rw [e3, e4] at hl
    obtain ⟨l1, l2⟩ := hl
    have hbad : ((s.cfg.desc p).hwDigest && (s.cfg.desc p).buffered &&
        decide (le64 (s.correctedBytes p) ((s.cfg.desc p).byteSize - 8) ≠ 0#64) &&
        decide (s.cfg.partDigest s.image p (s.correctedBytes p) ≠
          le64 (s.correctedBytes p) ((s.cfg.desc p).byteSize - 8))) = true ↔ s.failsCheck p := by
      simp only [Bool.and_eq_true, decide_eq_true_eq, State.failsCheck, State.storedDigest]
      exact ⟨fun ⟨⟨⟨a, b⟩, c⟩, d⟩ => ⟨h, a, b, c, d⟩, fun ⟨_, a, b, c, d⟩ => ⟨⟨⟨a, b⟩, c⟩, d⟩⟩
    have hpp : (powerupPartition p s).1 = (eccPass p s).state.loadPartition p (s.correctedBytes p) := by
      unfold powerupPartition; simp only [h1, if_true, h2]
    rw [hpp, l1, f1]
    simp only [Bool.or_eq_true, hany, hunc, hbad]
    simp only [h, not_true_eq_false, false_or, or_false, true_and, or_assoc, forall_true_left]
    intro hf he
    rw [l2 (by rw [Bool.eq_false_iff]; exact fun hb => hf (hbad.mp hb)), f2 h he]
    exact ⟨fun hc => if_pos (hcor.mpr hc), fun hc => if_neg (fun hb => hc (hcor.mp hb))⟩
  · obtain ⟨h1, _, _⟩ := eccPass_dirty s p h
    have hpp : (powerupPartition p s).1 = (eccPass p s).state := by
      unfold powerupPartition; simp only [h1, Bool.false_eq_true, if_false]
    have hnf : ¬ s.failsCheck p := fun hf => h hf.1
    rw [hpp, f1]
    simp only [Bool.or_eq_true, hany, hunc]
    simp only [h, hnf, not_false_eq_true, true_or, or_true, or_false, true_and, false_imp_iff]

/-- What power-up of every partition raises. -/
theorem powerupParts_flags (hl : s.parts.length = s.cfg.nPart)
    (hx : ∀ p, p < s.cfg.nPart → ¬ ((s.cfg.desc p).hwDigest = true ∧ (s.cfg.desc p).swDigest = true)) :
    ((powerupParts s).1.flags.1 = true ↔ s.flags.1 = true ∨
      ∃ p, p < s.cfg.nPart ∧ (¬ s.readsClean p ∨ s.corrects p ∨ s.failsCheck p)) ∧
    ((powerupParts s).1.flags.2.1 = true ↔ s.flags.2.1 = true ∨ ∃ p, p < s.cfg.nPart ∧ ¬ s.readsClean p) ∧
    ((powerupParts s).1.flags.2.2 = true ↔ s.flags.2.2 = true ∨ ∃ p, p < s.cfg.nPart ∧ s.failsCheck p) ∧
    ∀ q, s.cfg.nPart ≤ q → (powerupParts s).1.errAt q = s.errAt q := by
  unfold powerupParts
  let f := fun (acc : State × List (List Byte)) (p : Nat) =>
    let r := powerupPartition p acc.1; (r.1, acc.2 ++ [r.2])
  suffices ∀ n, n ≤ s.cfg.nPart → ((List.range n).foldl f (s, [])).1.cfg = s.cfg ∧
      ((List.range n).foldl f (s, [])).1.image = s.image ∧
      ((List.range n).foldl f (s, [])).1.parts.length = s.parts.length ∧
      (((List.range n).foldl f (s, [])).1.flags.1 = true ↔ s.flags.1 = true ∨
        ∃ p, p < n ∧ (¬ s.readsClean p ∨ s.corrects p ∨ s.failsCheck p)) ∧
      (((List.range n).foldl f (s, [])).1.flags.2.1 = true ↔ s.flags.2.1 = true ∨ ∃ p, p < n ∧ ¬ s.readsClean p) ∧
      (((List.range n).foldl f (s, [])).1.flags.2.2 = true ↔ s.flags.2.2 = true ∨ ∃ p, p < n ∧ s.failsCheck p) ∧
      ∀ q, n ≤ q → ((List.range n).foldl f (s, [])).1.errAt q = s.errAt q from (this s.cfg.nPart (le_refl _)).2.2.2
  intro n
  induction n with
  | zero => simp
  | succ n ih =>
    intro hn
    rw [List.range_succ, List.foldl_append, List.foldl_cons, List.foldl_nil]
    have ih := ih (by omega)
    generalize (List.range n).foldl f (s, []) = acc at ih ⊢
    obtain ⟨u, wcs⟩ := acc
    simp only at ih
    obtain ⟨h1, h2, h3, h4, h5, h6, h7⟩ := ih
    obtain ⟨k1, k2, k3, k4⟩ := powerupPartition_keeps u n
    obtain ⟨g1, g2, g3, _⟩ := powerupPartition_flags u n (by omega) (by rw [h1]; exact hx n hn)
    have r1 : u.readsClean n ↔ s.readsClean n := by simp only [State.readsClean, h1, h2]
    have r2 : u.corrects n ↔ s.corrects n := by simp only [State.corrects, h1, h2]
    have r3 : u.failsCheck n ↔ s.failsCheck n := by
      simp only [State.failsCheck, r1, State.storedDigest, State.correctedBytes, h1, h2]
    have ex (P : Nat → Prop) : (∃ p, p < n + 1 ∧ P p) ↔ (∃ p, p < n ∧ P p) ∨ P n := by
      constructor
      · rintro ⟨p, hp, h⟩
        rcases Nat.lt_succ_iff_lt_or_eq.mp hp with hp | rfl
        · exact .inl ⟨p, hp, h⟩
        · exact .inr h
      · rintro (⟨p, hp, h⟩ | h)
        · exact ⟨p, by omega, h⟩
        · exact ⟨n, by omega, h⟩
    simp only [f]
    rw [g1, g2, g3, h4, h5, h6, r1, r2, r3, ex, ex, ex]
    exact ⟨k3.trans h1, k4.trans h2, k1.trans h3, or_assoc, or_assoc, or_assoc,
      fun q hq => ((powerupPartition_other u n q (by omega)).2).trans (h7 q (by omega))⟩

/-- The partitions, slots and flags after power-up are those the partitions' sequence leaves. -/
theorem powerup_of_parts :
    (powerup s).parts = (powerupParts (s.mapDai fun d => { d with fsm := .init })).1.parts ∧
      (powerup s).err = (powerupParts (s.mapDai fun d => { d with fsm := .init })).1.err ∧
      (powerup s).flags = (powerupParts (s.mapDai fun d => { d with fsm := .init })).1.flags := by
  simp only [powerup]
  generalize powerupParts (s.mapDai fun d => { d with fsm := .init }) = r
  exact ⟨rfl, rfl, rfl⟩

end Sys2Proof.Machine
end

