-- ==== Sys2Proof/Laws/Storage.lean ====
section
/-! SUPPORT. What programming a granule, a word and a double word can do to an image. -/

namespace Sys2Proof

open Sys2Proof.Machine

/-- The image after programming one granule. -/
def programmed (c : Config) (img : Image) (a : Nat) (v : Half) : Image := (c.program16 img a v).1

theorem program16_eccEnabled (c : Config) (img : Image) (a : Nat) (v : Half) :
    (c.program16 img a v).1.eccEnabled = img.eccEnabled := by
  simp only [Config.program16]; split <;> rfl

theorem program16_digestIv (c : Config) (img : Image) (a : Nat) (v : Half) :
    (c.program16 img a v).1.digestIv = img.digestIv := by
  simp only [Config.program16]; split <;> rfl

theorem program16_digestConst (c : Config) (img : Image) (a : Nat) (v : Half) :
    (c.program16 img a v).1.digestConst = img.digestConst := by
  simp only [Config.program16]; split <;> rfl

theorem program16_data (c : Config) (img : Image) (a : Nat) (v : Half) :
    (c.program16 img a v).1.data = img.data.setHalf a (img.data.half a ||| v) := by
  simp only [Config.program16]; split <;> rfl

theorem program16_ecc (c : Config) (img : Image) (a : Nat) (v : Half) :
    (c.program16 img a v).1.ecc =
      if img.eccEnabled then img.ecc.set (a / 2) ((c.ecc16 (img.data.half a ||| v)).setWidth 8) else img.ecc := by
  simp only [Config.program16]; split <;> rfl

theorem program16_blank (c : Config) (img : Image) (a : Nat) (v : Half) :
    (c.program16 img a v).2 = decide (img.data.half a &&& ~~~v ≠ 0#16) := rfl

/-- Programming a granule keeps both memories canonical. -/
theorem program16_wf (c : Config) (img : Image) (a : Nat) (v : Half) (hd : img.data.wf = true)
    (he : img.ecc.wf = true) :
    (c.program16 img a v).1.data.wf = true ∧ (c.program16 img a v).1.ecc.wf = true := by
  rw [program16_data, program16_ecc]
  refine ⟨Memory.setHalf_wf _ hd _ _, ?_⟩
  split
  · exact Memory.set_wf _ he _ _
  · exact he

/-- Programming a granule inside the regions lists nothing outside them. -/
theorem program16_below (c : Config) (img : Image) (a n : Nat) (v : Half) (ha : a + 2 ≤ n) (hn : n % 2 = 0)
    (hd : img.data.below n = true) (he : img.ecc.below (n / 2) = true) :
    (c.program16 img a v).1.data.below n = true ∧ (c.program16 img a v).1.ecc.below (n / 2) = true := by
  rw [program16_data, program16_ecc]
  refine ⟨Memory.setHalf_below _ n a _ ha hd, ?_⟩
  split
  · exact Memory.set_below _ _ _ _ (by omega) he
  · exact he

/-- Programming a granule changes no other byte and no other code. -/
theorem program16_same (c : Config) (img : Image) (a : Nat) (v : Half) (hd : img.data.wf = true)
    (he : img.ecc.wf = true) : sameOutside a 2 img (c.program16 img a v).1 := by
  refine ⟨fun k hk => ?_, fun k hk => ?_, program16_eccEnabled c img a v, program16_digestIv c img a v,
    program16_digestConst c img a v⟩
  · rw [program16_data, Memory.get_setHalf _ hd, if_neg (by omega), if_neg (by omega)]
  · rw [program16_ecc]
    split
    · rw [Memory.get_set _ he, if_neg (by omega)]
    · rfl

/-- Programming a granule ORs its bits in and rewrites its code. -/
theorem program16_ors (c : Config) (img : Image) (a : Nat) (v : Half) (hd : img.data.wf = true)
    (he : img.ecc.wf = true) :
    (c.program16 img a v).1.data.half a = img.data.half a ||| v ∧
      (img.eccEnabled = true → (c.program16 img a v).1.eccRead a = c.ecc16 (img.data.half a ||| v)) ∧
      (img.eccEnabled = false → (c.program16 img a v).1.ecc = img.ecc) := by
  refine ⟨?_, fun h => ?_, fun h => ?_⟩
  · rw [program16_data, Memory.half_setHalf _ hd]
  · rw [Image.eccRead, program16_ecc, if_pos h, Memory.get_set _ he, if_pos rfl]
    simp
  · rw [program16_ecc, h]; simp

/-- The bytes of a half-word are bytes of its OR: no bit of a byte is cleared. -/
theorem program16_monotone (c : Config) (img : Image) (a : Nat) (v : Half) (hd : img.data.wf = true) (k : Nat) :
    img.data.get k &&& ~~~(c.program16 img a v).1.data.get k = 0#8 := by
  rw [program16_data, Memory.get_setHalf _ hd]
  split
  · rename_i h
    subst h
    simp only [Memory.half]
    ext i hi
    simp only [BitVec.getElem_and, BitVec.getElem_not, BitVec.getElem_extractLsb', BitVec.getLsbD_or,
      BitVec.getLsbD_append, BitVec.getElem_zero]
    rw [if_neg (by omega), show 8 + i - 8 = i by omega, BitVec.getLsbD_eq_getElem hi]
    cases (img.data.get (a + 1))[i] <;> simp
  · split
    · rename_i h
      subst h
      simp only [Memory.half]
      ext i hi
      simp only [BitVec.getElem_and, BitVec.getElem_not, BitVec.getElem_extractLsb', BitVec.getLsbD_or,
        BitVec.getLsbD_append, BitVec.getElem_zero]
      rw [if_pos (by omega), show 0 + i = i by omega, BitVec.getLsbD_eq_getElem hi]
      cases (img.data.get k)[i] <;> simp
    · ext i hi
      simp

theorem sameOutside_trans {a n b m e l : Nat} {i j k : Image} (h1 : sameOutside a n i j) (h2 : sameOutside b m j k)
    (ha : e ≤ a) (hb : e ≤ b) (han : a + n ≤ e + l) (hbm : b + m ≤ e + l) : sameOutside e l i k := by
  obtain ⟨d1, c1, x1, y1, z1⟩ := h1
  obtain ⟨d2, c2, x2, y2, z2⟩ := h2
  refine ⟨fun q hq => (d2 q (by omega)).trans (d1 q (by omega)), fun q hq => ?_, x2.trans x1, y2.trans y1,
    z2.trans z1⟩
  have hs : a / 2 ≥ e / 2 := Nat.div_le_div_right ha
  have hs' : b / 2 ≥ e / 2 := Nat.div_le_div_right hb
  have ht : (a + n) / 2 ≤ (e + l) / 2 := Nat.div_le_div_right han
  have ht' : (b + m) / 2 ≤ (e + l) / 2 := Nat.div_le_div_right hbm
  exact (c2 q (by omega)).trans (c1 q (by omega))

/-- Programming is OR: one granule as `orsBits` over two bytes. -/
theorem program16_orsBits (c : Config) (img : Image) (a : Nat) (v : Half) (hd : img.data.wf = true)
    (he : img.ecc.wf = true) : orsBits c a 2 (v.setWidth 64) img (c.program16 img a v).1 := by
  obtain ⟨h1, h2, h3⟩ := program16_ors c img a v hd he
  refine ⟨fun k hk => ?_, fun h k hk => ?_, h3, program16_same c img a v hd he⟩
  · have : k = 0 := by omega
    subst this
    have e : (v.setWidth 64).extractLsb' 0 16 = v := by
      ext i hi
      simp [show i < 64 by omega, BitVec.getLsbD_eq_getElem hi]
    simpa [e] using h1
  · have : k = 0 := by omega
    subst this
    simp [h1, h2 h]

/-- Two programmings side by side are one of the joined value. -/
theorem orsBits_join (c : Config) (a n : Nat) (lo hi v : DWord) (img img1 img2 : Image) (ha : a % 2 = 0)
    (hn : n % 2 = 0) (h1 : orsBits c a n lo img img1) (h2 : orsBits c (a + n) n hi img1 img2)
    (hlo : ∀ k, k < n / 2 → lo.extractLsb' (16 * k) 16 = v.extractLsb' (16 * k) 16)
    (hhi : ∀ k, k < n / 2 → hi.extractLsb' (16 * k) 16 = v.extractLsb' (16 * (k + n / 2)) 16) :
    orsBits c a (2 * n) v img img2 := by
  obtain ⟨d1, e1, f1, s1⟩ := h1
  obtain ⟨d2, e2, f2, s2⟩ := h2
  have keepLo : ∀ k, k < n / 2 → img2.data.half (a + 2 * k) = img1.data.half (a + 2 * k) := by
    intro k hk
    simp only [Memory.half]
    rw [s2.1 _ (by omega), s2.1 _ (by omega)]
  have keepHi : ∀ k, k < n / 2 → img1.data.half (a + n + 2 * k) = img.data.half (a + n + 2 * k) := by
    intro k hk
    simp only [Memory.half]
    rw [s1.1 _ (by omega), s1.1 _ (by omega)]
  refine ⟨fun k hk => ?_, fun h k hk => ?_, fun h => ?_, ?_⟩
  · by_cases hk2 : k < n / 2
    · rw [keepLo k hk2, d1 k hk2, hlo k hk2]
    · have e : a + 2 * k = a + n + 2 * (k - n / 2) := by omega
      have hk3 : k - n / 2 < n / 2 := by omega
      have e2 : k = k - n / 2 + n / 2 := by omega
      rw [e, d2 _ hk3, keepHi _ hk3, hhi _ hk3, ← e2]
  · by_cases hk2 : k < n / 2
    · rw [keepLo k hk2, ← e1 h k hk2]
      simp only [Image.eccRead]
      rw [s2.2.1 _ (by omega)]
    · have e : a + 2 * k = a + n + 2 * (k - n / 2) := by omega
      have hk3 : k - n / 2 < n / 2 := by omega
      have h' : img1.eccEnabled = true := s1.2.2.1.trans h
      rw [e, e2 h' _ hk3]
  · rw [f2 (s1.2.2.1.trans h), f1 h]
  · exact sameOutside_trans s1 s2 (le_refl a) (by omega) (by omega) (by omega)

/-- Programming a word. -/
theorem program32_wf (c : Config) (img : Image) (a : Nat) (v : Word) (hd : img.data.wf = true)
    (he : img.ecc.wf = true) :
    (c.program32 img a v).1.data.wf = true ∧ (c.program32 img a v).1.ecc.wf = true := by
  have h := program16_wf c img a (v.extractLsb' 0 16) hd he
  exact program16_wf c _ (a + 2) (v.extractLsb' 16 16) h.1 h.2

theorem program32_below (c : Config) (img : Image) (a n : Nat) (v : Word) (ha : a + 4 ≤ n) (hn : n % 2 = 0)
    (hd : img.data.below n = true) (he : img.ecc.below (n / 2) = true) :
    (c.program32 img a v).1.data.below n = true ∧ (c.program32 img a v).1.ecc.below (n / 2) = true := by
  have h := program16_below c img a n (v.extractLsb' 0 16) (by omega) hn hd he
  exact program16_below c _ (a + 2) n (v.extractLsb' 16 16) (by omega) hn h.1 h.2

theorem program32_orsBits (c : Config) (img : Image) (a : Nat) (v : Word) (ha : a % 2 = 0) (hd : img.data.wf = true)
    (he : img.ecc.wf = true) (w : DWord) (hw : w.extractLsb' 0 32 = v) :
    orsBits c a 4 w img (c.program32 img a v).1 := by
  have h := program16_wf c img a (v.extractLsb' 0 16) hd he
  refine orsBits_join c a 2 _ _ w img _ _ ha rfl
    (program16_orsBits c img a (v.extractLsb' 0 16) hd he)
    (program16_orsBits c _ (a + 2) (v.extractLsb' 16 16) h.1 h.2) ?_ ?_
  · intro k hk
    have : k = 0 := by omega
    subst this; subst hw
    ext i hi
    simp [hi, show i < 64 by omega]
  · intro k hk
    have : k = 0 := by omega
    subst this; subst hw
    ext i hi
    simp [hi, show i < 64 by omega]

theorem program32_monotone (c : Config) (img : Image) (a : Nat) (v : Word) (hd : img.data.wf = true) (k : Nat) :
    img.data.get k &&& ~~~(c.program32 img a v).1.data.get k = 0#8 := by
  have h1 := program16_monotone c img a (v.extractLsb' 0 16) hd k
  have hd2 : (c.program16 img a (v.extractLsb' 0 16)).1.data.wf = true := by
    rw [program16_data]; exact Memory.setHalf_wf _ hd _ _
  have h2 := program16_monotone c (c.program16 img a (v.extractLsb' 0 16)).1 (a + 2) (v.extractLsb' 16 16) hd2 k
  simp only [Config.program32]
  revert h1 h2
  generalize img.data.get k = x
  generalize (c.program16 img a (v.extractLsb' 0 16)).1.data.get k = y
  generalize (c.program16 _ (a + 2) (v.extractLsb' 16 16)).1.data.get k = z
  intro h1 h2
  ext i hi
  have e1 := congrArg (fun b : Byte => b.getLsbD i) h1
  have e2 := congrArg (fun b : Byte => b.getLsbD i) h2
  simp [hi, BitVec.getLsbD_eq_getElem] at e1 e2 ⊢
  tauto

theorem program32_data_wf (c : Config) (img : Image) (a : Nat) (v : Word) (hd : img.data.wf = true) :
    (c.program32 img a v).1.data.wf = true := by
  simp only [Config.program32, program16_data]
  exact Memory.setHalf_wf _ (Memory.setHalf_wf _ hd _ _) _ _

/-- Programming a double word. -/
theorem program64_wf (c : Config) (img : Image) (a : Nat) (v : DWord) (hd : img.data.wf = true)
    (he : img.ecc.wf = true) :
    (c.program64 img a v).1.data.wf = true ∧ (c.program64 img a v).1.ecc.wf = true := by
  have h := program32_wf c img a (v.extractLsb' 0 32) hd he
  exact program32_wf c _ (a + 4) (v.extractLsb' 32 32) h.1 h.2

theorem program64_below (c : Config) (img : Image) (a n : Nat) (v : DWord) (ha : a + 8 ≤ n) (hn : n % 2 = 0)
    (hd : img.data.below n = true) (he : img.ecc.below (n / 2) = true) :
    (c.program64 img a v).1.data.below n = true ∧ (c.program64 img a v).1.ecc.below (n / 2) = true := by
  have h := program32_below c img a n (v.extractLsb' 0 32) (by omega) hn hd he
  exact program32_below c _ (a + 4) n (v.extractLsb' 32 32) (by omega) hn h.1 h.2

theorem program64_orsBits (c : Config) (img : Image) (a : Nat) (v : DWord) (ha : a % 2 = 0) (hd : img.data.wf = true)
    (he : img.ecc.wf = true) : orsBits c a 8 v img (c.program64 img a v).1 := by
  have h := program32_wf c img a (v.extractLsb' 0 32) hd he
  refine orsBits_join c a 4 v ((v.extractLsb' 32 32).setWidth 64) v img _ _ ha rfl
    (program32_orsBits c img a (v.extractLsb' 0 32) ha hd he v rfl)
    (program32_orsBits c _ (a + 4) (v.extractLsb' 32 32) (by omega) h.1 h.2 _ ?_) ?_ ?_
  · ext i hi
    simp [hi, show i < 64 by omega]
  · intro k _; rfl
  · intro k hk
    have : k = 0 ∨ k = 1 := by omega
    rcases this with rfl | rfl
    · ext i hi
      simp [show i < 32 by omega, show i < 64 by omega]
    · ext i hi
      simp [show 16 + i < 32 by omega, show 16 + i < 64 by omega, ← Nat.add_assoc]

theorem program64_monotone (c : Config) (img : Image) (a : Nat) (v : DWord) (hd : img.data.wf = true)
    (k : Nat) : img.data.get k &&& ~~~(c.program64 img a v).1.data.get k = 0#8 := by
  have h1 := program32_monotone c img a (v.extractLsb' 0 32) hd k
  have hd2 := program32_data_wf c img a (v.extractLsb' 0 32) hd
  have h2 := program32_monotone c (c.program32 img a (v.extractLsb' 0 32)).1 (a + 4) (v.extractLsb' 32 32) hd2 k
  simp only [Config.program64]
  revert h1 h2
  generalize img.data.get k = x
  generalize (c.program32 img a (v.extractLsb' 0 32)).1.data.get k = y
  generalize (c.program32 _ (a + 4) (v.extractLsb' 32 32)).1.data.get k = z
  intro h1 h2
  ext i hi
  have e1 := congrArg (fun b : Byte => b.getLsbD i) h1
  have e2 := congrArg (fun b : Byte => b.getLsbD i) h2
  simp [hi, BitVec.getLsbD_eq_getElem] at e1 e2 ⊢
  tauto

/-- A half-word outside the programmed bytes is unchanged. -/
theorem half_sameOutside {a n : Nat} {i j : Image} (h : sameOutside a n i j) (k : Nat)
    (hk : k + 2 ≤ a ∨ a + n ≤ k) : j.data.half k = i.data.half k := by
  simp only [Memory.half]
  rw [h.1 k (by omega), h.1 (k + 1) (by omega)]

/-- The blank flag of a granule says that a set bit would be cleared. -/
theorem program16_clears (c : Config) (img : Image) (a : Nat) (v : Half) :
    (c.program16 img a v).2 = clearsBit a 2 (v.setWidth 64) img := by
  have e : (v.setWidth 64).extractLsb' 0 16 = v := by
    ext i hi
    simp [show i < 64 by omega, BitVec.getLsbD_eq_getElem hi]
  simp [program16_blank, clearsBit, e]

/-- The blank flag of a word. -/
theorem program32_clears (c : Config) (img : Image) (a : Nat) (v : Word) (w : DWord) (hw : w.extractLsb' 0 32 = v)
    (hd : img.data.wf = true) (he : img.ecc.wf = true) :
    (c.program32 img a v).2 = clearsBit a 4 w img := by
  subst hw
  have h := half_sameOutside (program16_same c img a ((w.extractLsb' 0 32).extractLsb' 0 16) hd he) (a + 2) (by omega)
  have e0 : (w.extractLsb' 0 32).extractLsb' 0 16 = w.extractLsb' 0 16 := by
    ext i hi; simp
  have e1 : (w.extractLsb' 0 32).extractLsb' 16 16 = w.extractLsb' 16 16 := by
    ext i hi; simp [show 16 + i < 32 by omega]
  simp only [Config.program32, program16_blank, h]
  simp [clearsBit, List.range_succ, e0, e1]

/-- The blank flag of a double word. -/
theorem program64_clears (c : Config) (img : Image) (a : Nat) (v : DWord) (ha : a % 2 = 0)
    (hd : img.data.wf = true) (he : img.ecc.wf = true) :
    (c.program64 img a v).2 = clearsBit a 8 v img := by
  have hs := (program32_orsBits c img a (v.extractLsb' 0 32) ha hd he v rfl).2.2.2
  have hw := program32_wf c img a (v.extractLsb' 0 32) hd he
  have e : ((v.extractLsb' 32 32).setWidth 64).extractLsb' 0 32 = v.extractLsb' 32 32 := by
    ext i hi
    simp [hi, show i < 64 by omega]
  have h1 := program32_clears c img a (v.extractLsb' 0 32) v rfl hd he
  have h2 := program32_clears c (c.program32 img a (v.extractLsb' 0 32)).1 (a + 4) (v.extractLsb' 32 32) _ e hw.1 hw.2
  have e0 : ((v.extractLsb' 32 32).setWidth 64).extractLsb' 0 16 = v.extractLsb' 32 16 := by
    ext i hi; simp [show i < 64 by omega, show i < 32 by omega]
  have e1 : ((v.extractLsb' 32 32).setWidth 64).extractLsb' 16 16 = v.extractLsb' 48 16 := by
    ext i hi; simp [show 16 + i < 64 by omega, show 16 + i < 32 by omega, ← Nat.add_assoc]
  simp only [Config.program64, h1, h2]
  simp only [clearsBit, show (8 / 2) = 4 from rfl, show 4 / 2 = 2 from rfl, List.range_succ, List.range_zero, List.nil_append,
    List.any_append, List.any_cons, List.any_nil, Bool.or_false]
  rw [half_sameOutside hs _ (by omega), half_sameOutside hs _ (by omega)]
  simp only [Nat.mul_zero, Nat.mul_one, e0, e1, Nat.reduceMul, Nat.add_assoc, Nat.reduceAdd, Bool.or_assoc, Nat.add_zero]

/-- The low half of a joined double word. -/
theorem append_low (x y : Word) : ((x ++ y : BitVec (32 + 32)) : DWord).extractLsb' 0 32 = y := by
  ext i hi
  have h : ((x ++ y : BitVec (32 + 32)) : DWord).getLsbD i = y.getLsbD i := by
    have := BitVec.getLsbD_append (x := x) (y := y) (i := i)
    rw [if_pos hi] at this
    exact this
  simp only [BitVec.getElem_extractLsb', Nat.zero_add]
  rw [h, BitVec.getLsbD_eq_getElem hi]

/-- What a DAI write does to the image: it ORs its data into the bytes of its access. -/
theorem daiProgram_orsBits (s : State) (p a : Nat) (hd : s.image.data.wf = true) (he : s.image.ecc.wf = true) :
    orsBits s.cfg (s.cfg.daiAddress p a) (s.cfg.daiWidth p a) (s.dai.wdata1 ++ s.dai.wdata0) s.image
        (s.daiProgram p a).1 ∧
      (s.daiProgram p a).2 =
        clearsBit (s.cfg.daiAddress p a) (s.cfg.daiWidth p a) (s.dai.wdata1 ++ s.dai.wdata0) s.image := by
  unfold State.daiProgram Config.daiAddress Config.daiWidth
  have e : (s.dai.wdata1 ++ s.dai.wdata0).extractLsb' 0 32 = s.dai.wdata0 := append_low _ _
  split
  · exact ⟨program64_orsBits s.cfg s.image _ _ (by unfold alignDown; omega) hd he,
      program64_clears s.cfg s.image _ _ (by unfold alignDown; omega) hd he⟩
  · exact ⟨program32_orsBits s.cfg s.image _ _ (by unfold alignDown; omega) hd he _ e,
      program32_clears s.cfg s.image _ _ _ e hd he⟩

/-- What persisting does to the file. -/
theorem Machine.State.persist_writesBack (s : State) (a n : Nat) : s.writesBack a n (s.persist a n) := by
  unfold State.writesBack
  refine ⟨fun h => by simp [State.persist, h], fun b hb hd he => ?_⟩
  simp only [State.persist, hb]
  refine ⟨trivial, _, rfl, ?_, ?_, ?_, ?_, ?_⟩
  · intro k
    cases hp : Config.persistOk s.draws
    · simp only [Bool.false_eq_true, if_false, Backing.torn, Memory.get_setBytes _ hd]
      simp only [List.length_map, List.length_range]
      split
      · rename_i hk
        rw [List.getD_eq_getElem?_getD, List.getElem?_map, List.getElem?_range (by omega)]
        simp; congr 1; omega
      · rfl
    · simp only [if_true, Backing.written, Memory.get_copyRange _ _ hd]
  · intro hx k
    cases hp : Config.persistOk s.draws
    · simp only [Bool.false_eq_true, if_false, Backing.torn, hx, if_true, Memory.get_setBytes _ he]
      simp only [List.length_map, List.length_range]
      split
      · rename_i hk
        rw [List.getD_eq_getElem?_getD, List.getElem?_map, List.getElem?_range (by omega)]
        simp; congr 1; omega
      · rfl
    · simp only [if_true, Backing.written, hx, Memory.get_copyRange _ _ he]
  · intro hx
    cases hp : Config.persistOk s.draws <;> simp [Backing.torn, Backing.written, hx]
  · cases hp : Config.persistOk s.draws <;> simp [Backing.torn, Backing.written]
  · cases hp : Config.persistOk s.draws <;> simp [Backing.torn, Backing.written]

/-- A write-back seen from states that share the file, the draws and the image. -/
theorem Machine.State.writesBack_of (s s' t t' : State) (a n : Nat) (h : s'.writesBack a n t')
    (hb : s'.backing = s.backing) (hd : s'.draws = s.draws) (tb : t.backing = t'.backing) (td : t.draws = t'.draws)
    (ti : t.image = t'.image) : s.writesBack a n t := by
  unfold State.writesBack at *
  rwa [tb, td, ti, ← hb, ← hd]

/-- A store of the DAI writes its bytes back, whatever is recorded beside. -/
theorem Machine.State.daiStore_writesBack (s u : State) (r : Image × Bool) (a n : Nat) (t : State)
    (hb : u.backing = s.backing) (hd : u.draws = s.draws) (tb : t.backing = (u.daiStore r a n).backing)
    (td : t.draws = (u.daiStore r a n).draws) (ti : t.image = (u.daiStore r a n).image) : s.writesBack a n t := by
  let v := if r.2 then (u.setImage r.1).record (u.setImage r.1).cfg.daiSlot .writeBlank else u.setImage r.1
  have e : ∀ f : State → Prop, f ((v.persist a n)) → f ((v.persist a n).record v.cfg.daiSlot .macroError) → f (u.daiStore r a n) := by
    intro f h1 h2
    show f (v.persistDai a n)
    unfold State.persistDai; split
    · exact h1
    · exact h2
  refine State.writesBack_of s v _ _ a n (v.persist_writesBack a n) ?_ ?_ ?_ ?_ ?_
  · simp only [v]; split <;> simpa
  · simp only [v]; split <;> simpa
  · rw [tb]; exact e (fun x => x.backing = _) rfl rfl
  · rw [td]; exact e (fun x => x.draws = _) rfl rfl
  · rw [ti]; exact e (fun x => x.image = _) rfl rfl

end Sys2Proof
end

