-- ==== Sys2Proof/Tests/Slice0.lean ====
section
/-! SUPPORT. Tests: the admitted set, the decoder on frames written out from the spec's encodings, one step of each
operation against spec/95_test_vectors.md, and for each obligation with hypotheses a state that meets them. -/

section
set_option Elab.async false

namespace Sys2Proof.Tests

open Sys2Proof Sys2Proof.Machine

/-! ### Helpers -/

/-- The outcome is a next state. -/
def ran : Host.Outcome State Fault Refusal → Bool
  | .next _ => true
  | .fault _ => false
  | .refused _ => false

theorem ran_next {o : Host.Outcome State Fault Refusal} (h : ran o = true) : ∃ t, o = .next t := by
  cases o with
  | next t => exact ⟨t, rfl⟩
  | fault f => simp [ran] at h
  | refused r => simp [ran] at h

/-- The state an operation leaves; the state itself if it does not run. -/
def run (i : Instr) (s : State) : State :=
  match exec i s with
  | .next t => t
  | .fault _ => s
  | .refused _ => s

/-- The state a step leaves; the state itself if it is refused. -/
def stepped (s : State) : State :=
  match step s with
  | .next t => t
  | .fault _ => s
  | .refused _ => s

/-- What is decoded from a frame of EX1. -/
def dec (bs : List Byte) : Option (Instr × List Byte) :=
  match decode ex1 bs with
  | .ok r => some r
  | .error _ => none

/-- EX1 after power-up of an all-zero image, but for its caches: every FSM Idle, nothing pending. -/
def ready : State :=
  { State.reset with
    parts := (resetParts ex1).map fun q => { q with fsm := .idle }
    dai := { resetDai with fsm := .idle }, lci := { resetLci ex1 with fsm := .idle }
    pool := resetPool, pending := [], outputs := [] }

/-- `ready` with the DAI's operands set. -/
def operands (a lo : Word) (s : State) : State := { s with dai := { s.dai with address := a, wdata0 := lo } }

/-- A waiting DAI. -/
def daiWaiting (f : DaiFsm) (p : Nat) (s : State) : State :=
  { s with dai := { s.dai with fsm := f, part := some p, pending := true }, pending := s.pending ++ [.daiDone] }

/-- A waiting LCI at a word. -/
def lciWaiting (k : Nat) (s : State) : State :=
  { s with lci := { s.lci with fsm := .writeWait, buf := ex1.lcEncode 1 1, cursor := k, cb := some 7#32 }
           pending := s.pending ++ [.lciWordDone] }

/-- An image with one flip at 0x48 and 0x80 and two at 0x50 and 0x84 (V-PU-5, V-PU-6). -/
def flawed : Image :=
  { ex1Image with
    data := [(0x48, 0x35#8), (0x49, 0x12#8), (0x50, 0x03#8), (0x80, 0x35#8), (0x81, 0x12#8), (0x84, 0x03#8)]
    ecc := [(0x24, 0x19#8), (0x40, 0x19#8)] }

/-- V-PU-3: HW_A's trailer holds the digest of its zero bytes, with its codes. -/
def digested : Image :=
  { ex1Image with
    data := [(0xA0, 0x2B#8), (0xA1, 0xFE#8), (0xA2, 0xC1#8), (0xA3, 0x60#8), (0xA4, 0xF5#8), (0xA5, 0x9A#8),
             (0xA6, 0x1D#8), (0xA7, 0x6D#8)]
    ecc := [(0x50, ex1.ecc16 0xFE2B#16 |>.setWidth 8), (0x51, ex1.ecc16 0x60C1#16 |>.setWidth 8),
            (0x52, ex1.ecc16 0x9AF5#16 |>.setWidth 8), (0x53, ex1.ecc16 0x6D1D#16 |>.setWidth 8)] }

/-- V-PU-4: HW_A's trailer is 1 with its code. -/
def misdigested : Image := { ex1Image with data := [(0xA0, 1#8)], ecc := [(0x50, 0x23#8)] }

/-- Word 0x40 holds 0xDEADBEEF (V-DAI-W1). -/
def beef : Image :=
  { ex1Image with data := [(0x40, 0xEF#8), (0x41, 0xBE#8), (0x42, 0xAD#8), (0x43, 0xDE#8)]
                  ecc := [(0x20, 0x0E#8), (0x21, 0x07#8)] }

/-- A key type of no bytes. -/
def blankKey : KeyType := { name := "", seedPart := 0, seedOffset := 0, keyBytes := 0, nonceWords := 0, entropyWords := 0 }

/-- After the rise of ESCALATE_EN. -/
def escalated : State := run (.lcsig .escalateEn true) ready

/-! ### The admitted set: an ill-formed term for each check -/

theorem test_wf_noErrCode1 : (Instr.rdErrCode 1).wf ex1 = false := by decide +kernel
theorem test_wf_noReadLockOfSwB : (Instr.wrReadLock 1 0#32).wf ex1 = false := by decide +kernel
theorem test_wf_noDigestOfLifeCycle : (Instr.rdDigest0 4).wf ex1 = false := by decide +kernel
theorem test_wf_unplacedRegister : Instr.rdStatus.wf ex1Base = false := by decide +kernel
theorem test_wf_windowMisaligned : (Instr.wrd 0x42#32).wf ex1 = false := by decide +kernel
theorem test_wf_windowReadOutside : (Instr.wrd 0x148#32).wf ex1 = false := by decide +kernel
theorem test_wf_windowWriteOutside : (Instr.wwr 0x148#32 0#32).wf ex1 = false := by decide +kernel
theorem test_wf_windowAddressTooWide :
    (Instr.wrd 4#32).wf { ex1 with swWindowBase := 0xFFFFFFFC } = false := by decide +kernel
theorem test_wf_lcprogState : (Instr.lcprog 21 0 0#32).wf ex1 = false := by decide +kernel
theorem test_wf_lcprogCount : (Instr.lcprog 0 25 0#32).wf ex1 = false := by decide +kernel
theorem test_wf_lcprogCountTooWide :
    (Instr.lcprog 0 4294967296 0#32).wf { ex1 with lcCntWords := 4294967296 } = false := by decide +kernel
theorem test_wf_getkeyType : (Instr.getkey 1).wf ex1 = false := by decide +kernel
theorem test_wf_getkeyTooWide :
    (Instr.getkey 256).wf { ex1 with keyTypes := List.replicate 257 blankKey } = false := by decide +kernel
theorem test_wf_alertack : (Instr.alertack 2).wf ex1 = false := by decide +kernel

/-! ### Decoding: a frame written out for every operation. Register offsets: spec/95_test_vectors.md 1.5; command values:
spec/30_encoding.md R108; kinds and the order of operands: the model's own (log 2). -/

theorem test_dec_daiRd : dec [0#8, 0xFF#8, 0#8, 0#8, 0x80#8] = some (.daiRd 0x4000007F#31, []) := by decide +kernel
theorem test_dec_daiWr : dec [0#8, 0xFE#8, 0#8, 0#8, 0x80#8] = some (.daiWr 0x2000003F#30, []) := by decide +kernel
theorem test_dec_daiDigest : dec [0#8, 0xFC#8, 0#8, 0#8, 0x80#8] = some (.daiDigest 0x1000001F#29, []) := by
  decide +kernel
theorem test_dec_daiNone : dec [0#8, 0xF8#8, 0#8, 0#8, 0x80#8] = some (.daiNone 0x1000001F#29, []) := by decide +kernel
theorem test_dec_rdIntrState : dec [1#8, 0x00#8, 0#8, 0#8, 0#8, 4#8] = some (.rdIntrState, []) := by decide +kernel
theorem test_dec_wrIntrState :
    dec [2#8, 0x00#8, 0#8, 0#8, 0#8, 4#8, 1#8, 2#8, 3#8, 4#8] = some (.wrIntrState 0x04030201#32, []) := by decide +kernel
theorem test_dec_rdIntrEnable : dec [1#8, 0x04#8, 0#8, 0#8, 0#8, 4#8] = some (.rdIntrEnable, []) := by decide +kernel
theorem test_dec_wrIntrEnable :
    dec [2#8, 0x04#8, 0#8, 0#8, 0#8, 4#8, 3#8, 0#8, 0#8, 0#8] = some (.wrIntrEnable 3#32, []) := by decide +kernel
theorem test_dec_rdIntrTest : dec [1#8, 0x08#8, 0#8, 0#8, 0#8, 4#8] = some (.rdIntrTest, []) := by decide +kernel
theorem test_dec_wrIntrTest :
    dec [2#8, 0x08#8, 0#8, 0#8, 0#8, 4#8, 2#8, 0#8, 0#8, 0#8] = some (.wrIntrTest 2#32, []) := by decide +kernel
theorem test_dec_rdAlertTest : dec [1#8, 0x0C#8, 0#8, 0#8, 0#8, 4#8] = some (.rdAlertTest, []) := by decide +kernel
theorem test_dec_wrAlertTest :
    dec [2#8, 0x0C#8, 0#8, 0#8, 0#8, 4#8, 3#8, 0#8, 0#8, 0#8] = some (.wrAlertTest 3#32, []) := by decide +kernel
theorem test_dec_rdStatus : dec [1#8, 0x10#8, 0#8, 0#8, 0#8, 4#8] = some (.rdStatus, []) := by decide +kernel
theorem test_dec_wrStatus :
    dec [2#8, 0x10#8, 0#8, 0#8, 0#8, 4#8, 0#8, 0#8, 0#8, 0x80#8] = some (.wrStatus 0x80000000#32, []) := by decide +kernel
theorem test_dec_rdErrCode : dec [1#8, 0x14#8, 0#8, 0#8, 0#8, 4#8] = some (.rdErrCode 0, []) := by decide +kernel
theorem test_dec_wrErrCode :
    dec [2#8, 0x14#8, 0#8, 0#8, 0#8, 4#8, 1#8, 0#8, 0#8, 0#8] = some (.wrErrCode 0 1#32, []) := by decide +kernel
theorem test_dec_rdDaiRegwen : dec [1#8, 0x18#8, 0#8, 0#8, 0#8, 4#8] = some (.rdDaiRegwen, []) := by decide +kernel
theorem test_dec_wrDaiRegwen :
    dec [2#8, 0x18#8, 0#8, 0#8, 0#8, 4#8, 0#8, 0#8, 0#8, 0#8] = some (.wrDaiRegwen 0#32, []) := by decide +kernel
theorem test_dec_rdDaiCmd : dec [1#8, 0x1C#8, 0#8, 0#8, 0#8, 4#8] = some (.rdDaiCmd, []) := by decide +kernel
theorem test_dec_wrDaiCmd :
    dec [2#8, 0x1C#8, 0#8, 0#8, 0#8, 4#8, 7#8, 0#8, 0#8, 0#8] = some (.wrDaiCmd 7#32, []) := by decide +kernel
theorem test_dec_rdDaiAddress : dec [1#8, 0x20#8, 0#8, 0#8, 0#8, 4#8] = some (.rdDaiAddress, []) := by decide +kernel
theorem test_dec_wrDaiAddress :
    dec [2#8, 0x20#8, 0#8, 0#8, 0#8, 4#8, 0xF0#8, 3#8, 0#8, 0#8] = some (.wrDaiAddress 0x3F0#32, []) := by decide +kernel
theorem test_dec_rdDaiWdata0 : dec [1#8, 0x24#8, 0#8, 0#8, 0#8, 4#8] = some (.rdDaiWdata0, []) := by decide +kernel
theorem test_dec_wrDaiWdata0 :
    dec [2#8, 0x24#8, 0#8, 0#8, 0#8, 4#8, 0xEF#8, 0xBE#8, 0xAD#8, 0xDE#8] = some (.wrDaiWdata0 0xDEADBEEF#32, []) := by
  decide +kernel
theorem test_dec_rdDaiWdata1 : dec [1#8, 0x28#8, 0#8, 0#8, 0#8, 4#8] = some (.rdDaiWdata1, []) := by decide +kernel
theorem test_dec_wrDaiWdata1 :
    dec [2#8, 0x28#8, 0#8, 0#8, 0#8, 4#8, 1#8, 0#8, 0#8, 0#8] = some (.wrDaiWdata1 1#32, []) := by decide +kernel
theorem test_dec_rdDaiRdata0 : dec [1#8, 0x2C#8, 0#8, 0#8, 0#8, 4#8] = some (.rdDaiRdata0, []) := by decide +kernel
theorem test_dec_wrDaiRdata0 :
    dec [2#8, 0x2C#8, 0#8, 0#8, 0#8, 4#8, 1#8, 0#8, 0#8, 0#8] = some (.wrDaiRdata0 1#32, []) := by decide +kernel
theorem test_dec_rdDaiRdata1 : dec [1#8, 0x30#8, 0#8, 0#8, 0#8, 4#8] = some (.rdDaiRdata1, []) := by decide +kernel
theorem test_dec_wrDaiRdata1 :
    dec [2#8, 0x30#8, 0#8, 0#8, 0#8, 4#8, 1#8, 0#8, 0#8, 0#8] = some (.wrDaiRdata1 1#32, []) := by decide +kernel
theorem test_dec_rdCheckTriggerRegwen :
    dec [1#8, 0x34#8, 0#8, 0#8, 0#8, 4#8] = some (.rdCheckTriggerRegwen, []) := by decide +kernel
theorem test_dec_wrCheckTriggerRegwen :
    dec [2#8, 0x34#8, 0#8, 0#8, 0#8, 4#8, 1#8, 0#8, 0#8, 0#8] = some (.wrCheckTriggerRegwen 1#32, []) := by
  decide +kernel
theorem test_dec_rdCheckTrigger : dec [1#8, 0x38#8, 0#8, 0#8, 0#8, 4#8] = some (.rdCheckTrigger, []) := by
  decide +kernel
theorem test_dec_wrCheckTrigger :
    dec [2#8, 0x38#8, 0#8, 0#8, 0#8, 4#8, 1#8, 0#8, 0#8, 0#8] = some (.wrCheckTrigger 1#32, []) := by decide +kernel
theorem test_dec_rdCheckRegwen : dec [1#8, 0x3C#8, 0#8, 0#8, 0#8, 4#8] = some (.rdCheckRegwen, []) := by decide +kernel
theorem test_dec_wrCheckRegwen :
    dec [2#8, 0x3C#8, 0#8, 0#8, 0#8, 4#8, 1#8, 0#8, 0#8, 0#8] = some (.wrCheckRegwen 1#32, []) := by decide +kernel
theorem test_dec_rdCheckTimeout : dec [1#8, 0x40#8, 0#8, 0#8, 0#8, 4#8] = some (.rdCheckTimeout, []) := by
  decide +kernel
theorem test_dec_wrCheckTimeout :
    dec [2#8, 0x40#8, 0#8, 0#8, 0#8, 4#8, 1#8, 0#8, 0#8, 0#8] = some (.wrCheckTimeout 1#32, []) := by decide +kernel
theorem test_dec_rdReadLock : dec [1#8, 0x44#8, 0#8, 0#8, 0#8, 4#8] = some (.rdReadLock 0, []) := by decide +kernel
theorem test_dec_wrReadLock :
    dec [2#8, 0x44#8, 0#8, 0#8, 0#8, 4#8, 0#8, 0#8, 0#8, 0#8] = some (.wrReadLock 0 0#32, []) := by decide +kernel
theorem test_dec_rdDigest0 : dec [1#8, 0x50#8, 0#8, 0#8, 0#8, 4#8] = some (.rdDigest0 1, []) := by decide +kernel
theorem test_dec_wrDigest0 :
    dec [2#8, 0x58#8, 0#8, 0#8, 0#8, 4#8, 1#8, 0#8, 0#8, 0#8] = some (.wrDigest0 2 1#32, []) := by decide +kernel
theorem test_dec_rdDigest1 : dec [1#8, 0x4C#8, 0#8, 0#8, 0#8, 4#8] = some (.rdDigest1 0, []) := by decide +kernel
theorem test_dec_wrDigest1 :
    dec [2#8, 0x64#8, 0#8, 0#8, 0#8, 4#8, 1#8, 0#8, 0#8, 0#8] = some (.wrDigest1 3 1#32, []) := by decide +kernel
theorem test_dec_wrd : dec [3#8, 0x44#8, 0x11#8, 0#8, 0#8, 4#8] = some (.wrd 0x144#32, []) := by decide +kernel
theorem test_dec_wwr :
    dec [4#8, 0x41#8, 0x10#8, 0#8, 0#8, 1#8, 9#8, 0#8, 0#8, 0#8] = some (.wwr 0x41#32 9#32, []) := by decide +kernel
theorem test_dec_pwrup : dec [6#8] = some (.pwrup, []) := by decide +kernel
theorem test_dec_lcprog :
    dec [7#8, 20#8, 24#8, 0#8, 0#8, 0#8, 4#8, 3#8, 2#8, 1#8] = some (.lcprog 20 24 0x01020304#32, []) := by
  decide +kernel
theorem test_dec_lcsig : dec [8#8, 4#8, 1#8] = some (.lcsig .seedWriteEn true, []) := by decide +kernel
theorem test_dec_getlc : dec [9#8] = some (.getlc, []) := by decide +kernel
theorem test_dec_gethw : dec [10#8, 9#8] = some (.gethw, [9#8]) := by decide +kernel
theorem test_dec_getkey : dec [11#8, 0#8] = some (.getkey 0, []) := by decide +kernel
theorem test_dec_entropy : dec [12#8, 0x11#8, 0x22#8, 0x33#8, 0x44#8, 1#8] = some (.entropy 0x44332211#32 true, []) := by
  decide +kernel
theorem test_dec_alertack : dec [13#8, 1#8] = some (.alertack 1, []) := by decide +kernel
theorem test_dec_fireDaiDone : dec [14#8] = some (.fireDaiDone, []) := by decide +kernel
theorem test_dec_fireLciWordDone : dec [15#8] = some (.fireLciWordDone, []) := by decide +kernel
theorem test_dec_fireLciFail : dec [16#8, 1#8, 0#8, 0#8, 0x80#8] = some (.fireLciFail 0x80000001#32, []) := by
  decide +kernel
theorem test_dec_reset : dec [17#8] = some (.reset, []) := by decide +kernel
theorem test_dec_refusals :
    dec [] = none ∧ dec [18#8] = none ∧ dec [1#8, 0x68#8, 0#8, 0#8, 0#8, 4#8] = none ∧
      dec [1#8, 0x10#8, 0#8, 0#8, 0#8, 2#8] = none ∧ dec [1#8, 0x12#8, 0#8, 0#8, 0#8, 4#8] = none ∧
      dec [5#8, 0#8, 0x10#8, 0#8, 0#8] = none ∧ dec [13#8, 2#8] = none := by decide +kernel

/-! ### One step of each operation. Values: spec/95_test_vectors.md, by the identifiers named. -/

/-- V-DAI-R1, Program A step A14. -/
theorem test_daiRd : (run (.daiRd 0#31) (operands 0x40#32 0#32 { ready with image := beef })).dai =
    { resetDai with fsm := .readWait, part := some 1, pending := true, address := 0x40#32, rdata0 := 0xDEADBEEF#32 } := by
  decide +kernel
/-- V-DAI-R3. -/
theorem test_daiRd_lifeCycle : ((run (.daiRd 0#31) (operands 0xF0#32 0#32 ready)).errAt 5 = .access) ∧
    (run (.daiRd 0#31) (operands 0xF0#32 0#32 ready)).intrState = 3#2 := by decide +kernel
/-- V-DAI-W2: address 0x42 uses word 0x40. -/
theorem test_daiWr : (run (.daiWr 0#30) (operands 0x42#32 0xDEADBEEF#32 ready)).image = beef := by decide +kernel
/-- V-DAI-W4. -/
theorem test_daiWr_blank :
    let s := run (.daiWr 0#30) (operands 0x44#32 2#32
      { ready with image := { ex1Image with data := [(0x44, 1#8)], ecc := [(0x22, 0x23#8)] } })
    s.image.data = [(0x44, 3#8)] ∧ s.image.ecc = [(0x22, 6#8)] ∧ s.errAt 5 = .writeBlank ∧ s.dai.fsm = .writeWait := by
  decide +kernel
/-- V-DAI-D1. -/
theorem test_daiDigest : ((run (.daiDigest 0#29) (operands 0x84#32 0#32 ready)).part 2).nextDigest =
    0x6D1D9AF560C1FE2B#64 := by decide +kernel
/-- V-DAI-D2. -/
theorem test_daiDigest_software : (run (.daiDigest 0#29) (operands 0#32 0#32 ready)).errAt 5 = .access := by
  decide +kernel
/-- V-DAI-R9. -/
theorem test_daiNone : run (.daiNone 5#29) ready = ready := by decide +kernel
/-- V-REG-3. -/
theorem test_wrIntrState : (run (.wrIntrState 1#32) { ready with intrState := 3#2 }).intrState = 2#2 := by decide +kernel
theorem test_rdIntrState : (run .rdIntrState { ready with intrState := 2#2 }).answers = [.data 2#32] := by decide +kernel
theorem test_wrIntrEnable : (run (.wrIntrEnable 0xFFFFFFFE#32) ready).intrEnable = 2#2 := by decide +kernel
theorem test_rdIntrEnable : (run .rdIntrEnable { ready with intrEnable := 3#2 }).answers = [.data 3#32] := by
  decide +kernel
/-- V-REG-2, and the line that rises with it (spec/46_registers.md R319). -/
theorem test_wrIntrTest : (run (.wrIntrTest 2#32) { ready with intrEnable := 3#2 }).intrState = 2#2 ∧
    (run (.wrIntrTest 2#32) { ready with intrEnable := 3#2 }).outputs = [.irq 1 true] := by decide +kernel
/-- V-REG-9. -/
theorem test_rdIntrTest : (run .rdIntrTest { ready with intrState := 3#2 }).answers = [.data 0#32] := by decide +kernel
/-- V-REG-4. -/
theorem test_wrAlertTest : (run (.wrAlertTest 3#32) ready).outputs = [.alert 0, .alert 1] := by decide +kernel
theorem test_rdAlertTest : (run .rdAlertTest { ready with alertLatch := 3#2 }).answers = [.data 0#32] := by
  decide +kernel
/-- V-REG-7. -/
theorem test_rdStatus : (run .rdStatus { ready with err :=
    [.eccUncorrectable, .eccCorrectable, .checkFail, .noError, .noError, .noError, .noError] }).answers =
    [.data 0x87#32] := by decide +kernel
theorem test_wrStatus : run (.wrStatus 0xFFFFFFFF#32) ready = ready := by decide +kernel
/-- V-REG-7. -/
theorem test_rdErrCode : (run (.rdErrCode 0) { ready with err :=
    [.eccUncorrectable, .eccCorrectable, .checkFail, .noError, .noError, .noError, .noError] }).answers =
    [.data 0x193#32] := by decide +kernel
theorem test_wrErrCode : run (.wrErrCode 0 0#32) escalated = escalated := by decide +kernel
/-- V-DAI-G4. -/
theorem test_rdDaiRegwen : (run .rdDaiRegwen State.reset).answers = [.data 0#32] ∧
    (run .rdDaiRegwen ready).answers = [.data 1#32] := by decide +kernel
/-- V-DAI-G3. -/
theorem test_wrDaiRegwen : (run (.wrDaiRegwen 0#32) ready).regwen = false ∧
    (run (.wrDaiRegwen 1#32) (run (.wrDaiRegwen 0#32) ready)).regwen = false := by decide +kernel
theorem test_rdDaiCmd : (run .rdDaiCmd ready).answers = [.data 0#32] := by decide +kernel
/-- V-DAI-R8: 6 selects WR. -/
theorem test_wrDaiCmd : (run (.wrDaiCmd 6#32) (operands 0x40#32 0xDEADBEEF#32 ready)).image = beef := by decide +kernel
/-- V-DAI-R7: 7 selects RD. -/
theorem test_wrDaiCmd_lowest : (run (.wrDaiCmd 7#32) (operands 0x40#32 0#32 ready)).dai.fsm = .readWait := by
  decide +kernel
/-- V-DAI-G1. -/
theorem test_wrDaiAddress : (run (.wrDaiAddress 0x3F0#32) ready).dai.address = 0x1F0#32 := by decide +kernel
/-- V-DAI-G2. -/
theorem test_wrDaiAddress_busy : (run (.wrDaiAddress 0x44#32) (daiWaiting .writeWait 1 ready)).dai.address = 0#32 := by
  decide +kernel
theorem test_rdDaiAddress : (run .rdDaiAddress (operands 0x40#32 0#32 ready)).answers = [.data 0x40#32] := by
  decide +kernel
theorem test_wrDaiWdata0 : (run (.wrDaiWdata0 5#32) ready).dai.wdata0 = 5#32 := by decide +kernel
theorem test_rdDaiWdata0 : (run .rdDaiWdata0 (operands 0#32 6#32 ready)).answers = [.data 6#32] := by decide +kernel
theorem test_wrDaiWdata1 : (run (.wrDaiWdata1 5#32) ready).dai.wdata1 = 5#32 := by decide +kernel
theorem test_rdDaiWdata1 : (run .rdDaiWdata1 { ready with dai := { resetDai with wdata1 := 8#32 } }).answers =
    [.data 8#32] := by decide +kernel
theorem test_rdDaiRdata0 : (run .rdDaiRdata0 { ready with dai := { resetDai with rdata0 := 8#32 } }).answers =
    [.data 8#32] := by decide +kernel
theorem test_wrDaiRdata0 : run (.wrDaiRdata0 1#32) ready = ready := by decide +kernel
theorem test_rdDaiRdata1 : (run .rdDaiRdata1 { ready with dai := { resetDai with rdata1 := 9#32 } }).answers =
    [.data 9#32] := by decide +kernel
theorem test_wrDaiRdata1 : run (.wrDaiRdata1 1#32) ready = ready := by decide +kernel
/-- V-REG-1. -/
theorem test_rdCheckTriggerRegwen : (run .rdCheckTriggerRegwen ready).answers = [.data 0#32] := by decide +kernel
theorem test_wrCheckTriggerRegwen : run (.wrCheckTriggerRegwen 1#32) ready = ready := by decide +kernel
theorem test_rdCheckTrigger : (run .rdCheckTrigger ready).answers = [.data 0#32] := by decide +kernel
theorem test_wrCheckTrigger : run (.wrCheckTrigger 1#32) ready = ready := by decide +kernel
theorem test_rdCheckRegwen : (run .rdCheckRegwen ready).answers = [.data 0#32] := by decide +kernel
theorem test_wrCheckRegwen : run (.wrCheckRegwen 1#32) ready = ready := by decide +kernel
theorem test_rdCheckTimeout : (run .rdCheckTimeout ready).answers = [.data 0#32] := by decide +kernel
theorem test_wrCheckTimeout : run (.wrCheckTimeout 1#32) ready = ready := by decide +kernel
/-- V-REG-5, V-REG-6. -/
theorem test_wrReadLock : (run (.wrReadLock 0 1#32) ready).readEnAt 0 = true ∧
    (run (.wrReadLock 0 1#32) (run (.wrReadLock 0 0#32) ready)).readEnAt 0 = false := by decide +kernel
theorem test_rdReadLock : (run (.rdReadLock 0) ready).answers = [.data 1#32] := by decide +kernel
/-- V-PU-3's digest, low word. -/
theorem test_rdDigest0 : (run (.rdDigest0 2) (ready.updPart 2 fun q =>
    { q with digest := 0x6D1D9AF560C1FE2B#64 })).answers = [.data 0x60C1FE2B#32] := by decide +kernel
theorem test_wrDigest0 : run (.wrDigest0 2 1#32) ready = ready := by decide +kernel
/-- V-PU-3's digest, high word. -/
theorem test_rdDigest1 : (run (.rdDigest1 2) (ready.updPart 2 fun q =>
    { q with digest := 0x6D1D9AF560C1FE2B#64 })).answers = [.data 0x6D1D9AF5#32] := by decide +kernel
theorem test_wrDigest1 : run (.wrDigest1 2 1#32) ready = ready := by decide +kernel
/-- V-WIN-1 and V-WIN-2. -/
theorem test_wrd : (run (.wrd 0x40#32) { ready with image := beef }).answers = [.data 0xDEADBEEF#32] ∧
    (run (.wrd 0x38#32) ready).answers = [.busError] := by decide +kernel
/-- V-WIN-7. -/
theorem test_wrd_corrected : (run (.wrd 0x48#32) { ready with image := flawed }).answers = [.data 0x1234#32] ∧
    (run (.wrd 0x48#32) { ready with image := flawed }).errAt 1 = .eccCorrectable := by decide +kernel
/-- V-WIN-9. -/
theorem test_wwr : run (.wwr 0x40#32 1#32) ready = { ready with answers := [.busError] } := by decide +kernel
/-- V-PU-1. -/
theorem test_pwrup : (run .pwrup State.reset).status = 0x80#32 ∧ (run .pwrup State.reset).lcinfo.lcValid = true ∧
    (run .pwrup State.reset).outputs = [.entropyReq, .pwrupAck] := by decide +kernel
/-- V-PU-4. -/
theorem test_pwrup_checkFail :
    let s := run .pwrup { State.reset with image := misdigested }
    s.errAt 2 = .checkFail ∧ (s.part 2).locked = true ∧ s.alertLatch = 2#2 ∧ s.hwcfg = resetHwCfg ex1 := by decide +kernel
/-- V-LCI-5. -/
theorem test_lcprog :
    let s := run (.lcprog 1 1 7#32) ready
    s.image.data = [(0xF0, 0xFF#8), (0xF1, 0xFF#8)] ∧ s.image.ecc = [(0x78, 0x1E#8)] ∧ s.pending = [.lciWordDone] := by
  decide +kernel
/-- V-LCI-8. -/
theorem test_lcprog_busy : (run (.lcprog 1 1 7#32) State.reset).answers = [.lcprog false] := by decide +kernel
/-- V-MEM-29: only the read lock goes. -/
theorem test_lcsig : (run (.lcsig .seedReadEn true) ready).isReadable 3 0xA8 = true ∧
    (run (.lcsig .seedReadEn true) ready).isWritable 3 = false := by decide +kernel
/-- V-ESC-1. -/
theorem test_lcsig_escalate :
    let s := run (.lcsig .escalateEn true) { ready with intrEnable := 3#2 }
    s.status = 0x7F#32 ∧ s.outputs = [.irq 1 true, .alert 1] ∧ s.alertLatch = 2#2 := by decide +kernel
/-- V-LCI-16. -/
theorem test_getlc : (run .getlc ready).answers = [.lcInfo 0x2F7BDEF7#30 0 false false (resetToken ex1)
    (resetToken ex1) (resetToken ex1)] := by decide +kernel
theorem test_gethw : (run .gethw ready).answers = [.hwConfig (resetHwCfg ex1)] := by decide +kernel
/-- V-KEY-1: the seed bytes in the buffer, six words in the pool. -/
theorem test_getkey : (run (.getkey 0)
    ({ ready with pool := { words := [0x11111111#32, 0x22222222#32, 0x33333333#32, 0x44444444#32, 0x55555555#32,
                                      0x66666666#32], requested := true } }.updPart 3 fun q =>
      { q with locked := true, buffer := List.replicate 0x30 0#8 ++ (List.range 16).map (BitVec.ofNat 8) })).answers =
    [.key 0x3327394801CFB57C#64 [0x11111111#32, 0x22222222#32] true] := by decide +kernel
/-- V-KEY-5: the ninth word is dropped. -/
theorem test_entropy :
    (run (.entropy 9#32 true) { ready with pool := { words := List.replicate 8 1#32, requested := true } }).pool =
      { words := List.replicate 8 1#32, requested := false } := by decide +kernel
theorem test_alertack : (run (.alertack 1) { ready with alertLatch := 3#2 }).alertLatch = 1#2 := by decide +kernel
/-- V-DAI-R1, the completion. -/
theorem test_fireDaiDone : (run .fireDaiDone (daiWaiting .readWait 1 ready)).dai.fsm = .idle ∧
    (run .fireDaiDone (daiWaiting .readWait 1 ready)).intrState = 1#2 := by decide +kernel
/-- V-DAI-D1, the commit. -/
theorem test_fireDaiDone_digest :
    (run .fireDaiDone (daiWaiting .digestWait 2 (ready.updPart 2 fun q =>
      { q with nextDigest := 0x6D1D9AF560C1FE2B#64 }))).image.data = digested.data := by decide +kernel
/-- Program C's last word: the acknowledgement is success. -/
theorem test_fireLciWordDone : (run .fireLciWordDone (lciWaiting 43 ready)).outputs = [.lcAck 7#32 true] ∧
    (run .fireLciWordDone (lciWaiting 43 ready)).lci.fsm = .idle := by decide +kernel
theorem test_fireLciWordDone_next : (run .fireLciWordDone (lciWaiting 23 ready)).image.data =
    [(0x120, 0xFF#8), (0x121, 0xFF#8)] := by decide +kernel
theorem test_fireLciFail : run (.fireLciFail 5#32) { ready with pending := [.lciFail 5#32, .daiDone] } =
    { ready with pending := [.daiDone], outputs := [.lcAck 5#32 false] } := by decide +kernel
/-- V-RST-1. -/
theorem test_reset : run .reset (daiWaiting .readWait 1 { ready with image := beef, outputs := [] }) =
    { State.reset with image := beef } := by decide +kernel

/-! ### Vectors of the codec and the digest (spec/95_test_vectors.md 3.1, 3.2) -/

theorem test_ecc16 : ex1.ecc16 0xDEAD#16 = 0x07#6 ∧ ex1.ecc16 0x8000#16 = 0x15#6 ∧ ex1.ecc16 0x1234#16 = 0x19#6 := by
  decide +kernel
theorem test_verify22 : ex1.verify22 0x191214#22 = (0x1234#16, .corrected) ∧
    ex1.verify22 0x1B123C#22 = (0x123C#16, .uncorrectable) ∧ ex1.verify22 0x091237#22 = (0x1237#16, .corrected) := by
  decide +kernel
theorem test_ecc64 : ex1.ecc64 0x0123456789ABCDEF#64 = 0x21172E18#32 := by decide +kernel
theorem test_present128 : present128 0#128 0xFFFFFFFFFFFFFFFF#64 = 0x3C6019E5E5EDD563#64 := by decide +kernel
theorem test_digest_tail : ({ ex1 with digestTail := .duplicate }).digest ((List.range 24).map (BitVec.ofNat 8)) 24
    0x0123456789ABCDEF#64 0x00112233445566778899AABBCCDDEEFF#128 = 0xDDF861366E7DFA84#64 := by decide +kernel

/-! ### Bare table words, construction and the backing file -/

/-- A word that is an offset reads its register; another is a command value (log 3). -/
theorem test_tableWord : decodeTableWord 32 0x10 = some .rdStatus ∧ decodeTableWord 32 1 = some (.daiRd 0#31) ∧
    decodeTableWord 32 2 = some (.daiWr 0#30) ∧ decodeTableWord 32 0x84 = some (.daiDigest 0x10#29) := by decide +kernel
/-- The very next step runs the presented word: STATUS is 0 after reset (V-REG-1). -/
theorem test_withFetchWord : stepped (State.reset.withFetchWord 32 0x10) =
    { State.reset with answers := [.data 0#32] } := by decide +kernel
/-- The header of EX1's file (section 1.6). -/
theorem test_fileHeader : (fileOf ex1 ex1Image).take 48 =
    [0x76#8, 0x4F#8, 0x54#8, 0x50#8, 0x28#8, 0#8, 0#8, 0#8, 2#8, 0#8, 0#8, 0#8, 6#8, 0#8, 0x10#8, 0#8, 0x48#8, 1#8, 0#8,
     0#8, 0xA4#8, 0#8, 0#8, 0#8, 0xEF#8, 0xCD#8, 0xAB#8, 0x89#8, 0x67#8, 0x45#8, 0x23#8, 0x01#8, 0xFF#8, 0xEE#8, 0xDD#8,
     0xCC#8, 0xBB#8, 0xAA#8, 0x99#8, 0x88#8, 0x77#8, 0x66#8, 0x55#8, 0x44#8, 0x33#8, 0x22#8, 0x11#8, 0x00#8] ∧
    (fileOf ex1 ex1Image).length = 0x1000 := by decide +kernel
/-- The load error of a file, if there is one. -/
def loadError (f : List Byte) : Option LoadError :=
  match loadImage ex1 f with
  | .ok _ => none
  | .error e => some e
/-- Section 1.6: version 1 with `hlength` 40, `data_len` 0x140, `ecc_len` 0x52, magic "vOTQ". -/
theorem test_fileErrors :
    loadError ((fileOf ex1 ex1Image).set 8 1#8) = some .badHeaderLength ∧
      loadError ((fileOf ex1 ex1Image).set 16 0x40#8) = some .badDataLength ∧
      loadError ((fileOf ex1 ex1Image).set 20 0x52#8) = some .badEccGeometry ∧
      loadError ((fileOf ex1 ex1Image).set 3 0x51#8) = some .badMagic := by decide +kernel

/-- A version-1 file: `hlength` 16, the regions behind the short header, a byte behind them. -/
def fileV1 : List Byte :=
  ((fileOf ex1 beef).take 24).set 4 16#8 |>.set 8 1#8 |>.append ((fileOf ex1 beef).drop 48 |>.take 0x1EC) |>.append [0xAB#8]
/-- Version 1 takes the configuration's digest parameters (R70), and the backing file stays the file (R72). -/
theorem test_fileV1 :
    (match construct { ex1 with defaultDigestIv := 5#64, defaultDigestConst := 6#128 } (some fileV1) with
    | .ok s => decide (s.image = { beef with digestIv := 5#64, digestConst := 6#128 } ∧ s.backingFile = some fileV1)
    | .error _ => false) = true := by decide +kernel
/-- Without a partition table that meets R63 there is no device (U13). -/
theorem test_badConfig :
    (match construct { ex1 with otpDataSize := 0x149 } none with | .ok _ => none | .error e => some e) =
      some .badConfig := by decide +kernel
/-- Names of `LC_STATES` (spec/30_encoding.md R121). -/
theorem test_lcStates : ex1.lcStateName 1#5 = "TEST_UNLOCKED0" ∧ ex1.lcStateName 20#5 = "SCRAP" ∧
    ex1.lcStateName 23#5 = "INVALID" ∧ ex1.lcStateName 21#5 = "unused" := by decide +kernel

/-! ### Witnesses: for each obligation with hypotheses, states and operands that meet them, clause by clause, at the ends of
the ranges. -/

/-- A DAI write and an LCI word in flight, an entropy request pending. -/
def busy : State :=
  lciWaiting 43 (daiWaiting .writeWait 1
    { ready with pending := [.entropyRequest], pool := { words := [5#32], requested := true } })

/-- A DIGEST of HW_A in flight. -/
def committing : State :=
  daiWaiting .digestWait 2 (ready.updPart 2 fun q => { q with nextDigest := 0x6D1D9AF560C1FE2B#64 })

/-- After escalation with both engines waiting. -/
def escalatedBusy : State := run (.lcsig .escalateEn true) busy

/-- Power-up is about to start on an image. -/
def cold (img : Image) : State := { State.reset with image := img }

theorem witness_StepRunsDecodedOperation :
    ({ State.reset with inbox := [9#8, 6#8] }).cfg.partTableOk = true ∧
      decode ({ State.reset with inbox := [9#8, 6#8] }).cfg ({ State.reset with inbox := [9#8, 6#8] }).inbox =
        .ok (.getlc, [6#8]) ∧
      State.reset.cfg.partTableOk = true ∧ State.reset.inbox = [] := ⟨by decide +kernel, rfl, by decide +kernel, rfl⟩

theorem witness_PresentedOperationRuns :
    State.reset.cfg.partTableOk = true ∧ State.reset.cfg.regmapOk = true ∧
      (Instr.wrReadLock 0 1#32).wf State.reset.cfg = true := by decide +kernel

/-- Operands at the ends of their ranges. -/
theorem witness_DecodeInvertsEncode :
    ex1.regmapOk = true ∧ (Instr.wrd 0x144#32).wf ex1 = true ∧ (Instr.wwr 0x147#32 0#32).wf ex1 = true ∧
      (Instr.lcprog 20 24 0xFFFFFFFF#32).wf ex1 = true ∧ (Instr.getkey 0).wf ex1 = true ∧
      (Instr.alertack 1).wf ex1 = true ∧ (Instr.rdDigest1 3).wf ex1 = true ∧ (Instr.daiRd 5#31).wf ex1 = true := by
  decide +kernel

theorem witness_DecodedOperationsAreAdmitted :
    ex1.regmapOk = true ∧ dec [4#8, 0x47#8, 0x11#8, 0#8, 0#8, 2#8, 1#8, 0#8, 0#8, 0#8] =
      some (.wwr 0x147#32 1#32, []) := by decide +kernel

/-- EX1 with the data size 0x149, no multiple of 8 (R63). -/
theorem test_badTable_dataSize : ¬ TableRules { ex1 with otpDataSize := 0x149 } := fun h => by
  have := h.dataSize
  revert this; decide +kernel

/-- A descriptor whose digest offset is no u32 (R62). -/
theorem test_badTable_width :
    ¬ TableRules { ex1 with partTable := ex1Parts.modify 4 fun d => { d with digestOffset := 4294967296 } } := by
  rw [← partTableOk_iff]; decide +kernel

/-- EX1 meets the rules. -/
theorem test_goodTable : TableRules ex1 := (partTableOk_iff ex1).mp (by decide +kernel)

/-- One clause after the other; the offset 0x68 is the first behind the last register. -/
theorem witness_OperationsOutsideTheSetAreRefused :
    ¬ TableRules ({ State.reset with cfg := { ex1 with otpDataSize := 0x149 } }).cfg ∧ State.reset.cfg.partTableOk = true ∧
      ((2#8 : Byte) ≠ 4#8 ∧ (0x12#32).toNat % 4 ≠ 0 ∧ State.reset.cfg.regAt (0x68#32).toNat = none) ∧
      ((0xFFF#32).toNat < State.reset.cfg.swWindowBase ∧
        State.reset.cfg.swWindowBase + State.reset.cfg.swWindowSize ≤ (0x1148#32).toNat) ∧
      (State.reset.cfg.swWindowBase ≤ (0x1147#32).toNat ∧
        (0x1147#32).toNat < State.reset.cfg.swWindowBase + State.reset.cfg.swWindowSize ∧
        ((0x1147#32).toNat - State.reset.cfg.swWindowBase) % 4 ≠ 0) ∧
      5 ≤ (5#8).toNat ∧ State.reset.cfg.lcProgrammable 21 = false ∧
      (State.reset.cfg.lcStates = defaultLcStates ∧ 20 < 21) ∧ State.reset.cfg.lcCntMax < 25 ∧ State.reset.cfg.keyTypes.length ≤ 1 ∧
      ((0x142#32).toNat % 4 ≠ 0 ∧ State.reset.cfg.swWindowSize ≤ (0x148#32).toNat) ∧
      State.reset.cfg.hasReg (.errCode 1) = false ∧ State.reset.cfg.hasReg (.readLock 1) = false ∧
      State.reset.cfg.hasReg (.digest1 4) = false ∧ Event.daiDone ∉ State.reset.pending ∧
      Event.lciWordDone ∉ State.reset.pending ∧ Event.lciFail 3#32 ∉ State.reset.pending :=
  ⟨test_badTable_dataSize, by decide +kernel⟩

theorem witness_RegisterReadsAnswerTheirFields :
    0 < ready.cfg.nPart ∧ (ready.cfg.desc 0).readLockable = true ∧ (ready.cfg.desc 0).swDigest = true ∧
      3 < ready.cfg.nPart ∧ (ready.cfg.desc 3).hwDigest = true := by decide +kernel

theorem witness_ErrCodeRegistersPackSlots :
    0 < (ready.cfg.nPart + 2 + 9) / 10 ∧ 6 < ready.cfg.nPart + 2 ∧ 6 / 10 = 0 ∧ 30 ≤ 31 ∧
      ready.cfg.nPart + 2 ≤ 10 * 0 + 21 / 3 := by decide +kernel

theorem witness_IgnoredWritesChangeNothing :
    0 < (ready.cfg.nPart + 2 + 9) / 10 ∧ 3 < ready.cfg.nPart ∧ (ready.cfg.desc 3).hasDigest = true := by
  decide +kernel

/-- An interrupt and an alert rise in one step; the levels agree before it. -/
theorem witness_OperationsReportTheirChanges :
    (∃ t, exec (.lcsig .escalateEn true) { ready with intrEnable := 3#2 } = .next t) ∧
      (run (.lcsig .escalateEn true) { ready with intrEnable := 3#2 }).outputs ≠ [] :=
  ⟨ran_next (by decide +kernel), by decide +kernel⟩

theorem witness_InterruptLevelsAreReported :
    (∀ k : Fin 2, lastIrq k ({ ready with intrEnable := 3#2, inbox := cmdFrame 1#32 }).outputs =
      ({ ready with intrEnable := 3#2, inbox := cmdFrame 1#32 }).line k.val) ∧
      ∃ t, step { ready with intrEnable := 3#2, inbox := cmdFrame 1#32 } = .next t :=
  ⟨by decide +kernel, ran_next (by decide +kernel)⟩

/-- Reset, Error, a Wait state and a locked latch. -/
theorem witness_ClosedGateIgnoresWrites :
    ¬ (State.reset.dai.regwenSw = true ∧ State.reset.dai.fsm = .idle) ∧
      ¬ (escalated.dai.regwenSw = true ∧ escalated.dai.fsm = .idle) ∧
      ¬ (busy.dai.regwenSw = true ∧ busy.dai.fsm = .idle) ∧
      ¬ ((run (.wrDaiRegwen 0#32) ready).dai.regwenSw = true ∧ ready.dai.fsm = .idle) ∧
      busy.cfg.hasReg (.readLock 0) = true := by decide +kernel

theorem witness_OpenGateStoresOperands :
    ready.dai.regwenSw = true ∧ ready.dai.fsm = .idle ∧ 0 < ready.cfg.nPart ∧
      (ready.cfg.desc 0).readLockable = true ∧ ready.readEn.length = ready.cfg.nPart ∧
      (0xFFFFFFFE#32).getLsbD 0 = false ∧ ready.cfg.isDigestAddress 0 0x37 = false := by decide +kernel

theorem witness_RegwenLatchLocksUntilReset :
    (∃ t, exec .pwrup (run (.wrDaiRegwen 0#32) State.reset) = .next t) ∧
      (run (.wrDaiRegwen 0#32) State.reset).dai.regwenSw = false ∧ busy.dai.fsm ≠ .idle :=
  ⟨ran_next (by decide +kernel), by decide +kernel, by decide +kernel⟩

/-- Values whose lowest set bit of 2:0 is bit 0, 1, 2, and none, all with ignored bits set. -/
theorem witness_CommandValueSelectsCommand :
    (0xFFFFFFFF#32).getLsbD 0 = true ∧
      ((0xFFFFFFFE#32).getLsbD 0 = false ∧ (0xFFFFFFFE#32).getLsbD 1 = true) ∧
      ((0xFFFFFFFC#32).getLsbD 0 = false ∧ (0xFFFFFFFC#32).getLsbD 1 = false ∧ (0xFFFFFFFC#32).getLsbD 2 = true) ∧
      ((0xFFFFFFF8#32).getLsbD 0 = false ∧ (0xFFFFFFF8#32).getLsbD 1 = false ∧ (0xFFFFFFF8#32).getLsbD 2 = false) := by
  decide +kernel

theorem witness_UnreadableReadIsRejected :
    ready.dai.regwenSw = true ∧ ready.dai.fsm = .idle ∧
      (operands 0x148#32 0#32 ready).cfg.partitionOf (0x148#32).toNat = none ∧
      (operands 0x147#32 0#32 ready).cfg.partitionOf (0x147#32).toNat = some ready.cfg.lcPart ∧
      (operands 0xA8#32 0#32 ready).cfg.partitionOf (0xA8#32).toNat = some 3 ∧
      (operands 0xA8#32 0#32 ready).isReadable 3 (0xA8#32).toNat = false := by decide +kernel

/-- A clean wide and a corrected 32-bit read of HW_A. -/
theorem witness_BufferedReadCompletesAtOnce :
    (∃ s : State, s.dai.regwenSw = true ∧ s.dai.fsm = .idle ∧ s.cfg.partitionOf s.dai.address.toNat = some 2 ∧
      2 ≠ s.cfg.lcPart ∧ s.isReadable 2 s.dai.address.toNat = true ∧ (s.cfg.desc 2).buffered = true ∧
      ((0#64, Severity.clean) : DWord × Severity) = (if s.cfg.isWideGranule 2 s.dai.address.toNat then
          s.cfg.eccCheck64 s.image (s.dai.address.toNat / 8 * 8)
        else
          let r := s.cfg.eccCheck32 s.image (s.dai.address.toNat / 4 * 4)
          (0#32 ++ r.1, r.2)) ∧ Severity.clean ≠ .uncorrectable) ∧
    ∃ s : State, s.dai.regwenSw = true ∧ s.dai.fsm = .idle ∧ s.cfg.partitionOf s.dai.address.toNat = some 2 ∧
      2 ≠ s.cfg.lcPart ∧ s.isReadable 2 s.dai.address.toNat = true ∧ (s.cfg.desc 2).buffered = true ∧
      ((0x1234#64, Severity.corrected) : DWord × Severity) = (if s.cfg.isWideGranule 2 s.dai.address.toNat then
          s.cfg.eccCheck64 s.image (s.dai.address.toNat / 8 * 8)
        else
          let r := s.cfg.eccCheck32 s.image (s.dai.address.toNat / 4 * 4)
          (0#32 ++ r.1, r.2)) ∧ Severity.corrected ≠ .uncorrectable :=
  ⟨⟨operands 0xA7#32 0#32 ready, by decide +kernel⟩,
    ⟨operands 0x80#32 0#32 { ready with image := flawed }, by decide +kernel⟩⟩

theorem witness_UnbufferedReadCompletesOnDone :
    ∃ s : State, s.dai.regwenSw = true ∧ s.dai.fsm = .idle ∧ .daiDone ∉ s.pending ∧
      s.cfg.partitionOf s.dai.address.toNat = some 1 ∧ 1 ≠ s.cfg.lcPart ∧
      s.isReadable 1 s.dai.address.toNat = true ∧ (s.cfg.desc 1).buffered = false ∧
      ((0x1234#64, Severity.corrected) : DWord × Severity) = (if s.cfg.isWideGranule 1 s.dai.address.toNat then
          s.cfg.eccCheck64 s.image (s.dai.address.toNat / 8 * 8)
        else
          let r := s.cfg.eccCheck32 s.image (s.dai.address.toNat / 4 * 4)
          (0#32 ++ r.1, r.2)) ∧ Severity.corrected ≠ .uncorrectable :=
  ⟨operands 0x4B#32 0#32 { ready with image := flawed }, by decide +kernel⟩

theorem witness_UncorrectableReadIsFatal :
    ∃ s : State, s.dai.regwenSw = true ∧ s.dai.fsm = .idle ∧ s.cfg.partitionOf s.dai.address.toNat = some 1 ∧
      1 ≠ s.cfg.lcPart ∧ s.isReadable 1 s.dai.address.toNat = true ∧
      (if s.cfg.isWideGranule 1 s.dai.address.toNat then
          (s.cfg.eccCheck64 s.image (s.dai.address.toNat / 8 * 8)).2
        else (s.cfg.eccCheck32 s.image (s.dai.address.toNat / 4 * 4)).2) = .uncorrectable :=
  ⟨operands 0x50#32 0#32 { ready with image := flawed }, by decide +kernel⟩

/-- No partition, the life-cycle partition, a hardware digest, a locked partition, a read-only backend. -/
theorem witness_DaiWriteChecksInOrder :
    ready.dai.regwenSw = true ∧ ready.dai.fsm = .idle ∧ ready.cfg.partitionOf 0x1F0 = none ∧
      (ready.cfg.partitionOf 0xF0 = some 4 ∧ 4 = ready.cfg.lcPart) ∧
      (ready.cfg.partitionOf 0xA0 = some 2 ∧ (ready.cfg.desc 2).hwDigest = true ∧
        ready.cfg.isDigestAddress 2 0xA0 = true) ∧
      (ready.cfg.partitionOf 0xA8 = some 3 ∧ ready.isWritable 3 = false) ∧
      (ready.cfg.partitionOf 0x9F = some 2 ∧ 2 ≠ ready.cfg.lcPart ∧
        ¬ ((ready.cfg.desc 2).hwDigest = true ∧ ready.cfg.isDigestAddress 2 0x9F = true) ∧
        ready.isWritable 2 = true ∧ ({ ready.cfg with backendWritable := false }).backendWritable = false) := by
  decide +kernel

/-- A 32-bit word and a wide granule, the software digest of SW_B. -/
theorem witness_DaiWriteOrsBits :
    ready.dai.regwenSw = true ∧ ready.dai.fsm = .idle ∧ 1 ≠ ready.cfg.lcPart ∧
      ready.cfg.partitionOf 0x77 = some 1 ∧ ready.cfg.partitionOf 0x7F = some 1 ∧
      ¬ ((ready.cfg.desc 1).hwDigest = true ∧ ready.cfg.isDigestAddress 1 0x7F = true) ∧
      ready.isWritable 1 = true ∧ ready.cfg.backendWritable = true ∧ beef.data.wf = true ∧ beef.ecc.wf = true ∧
      (0x74, 4) = (if ready.cfg.isWideGranule 1 0x77 then (0x77 / 8 * 8, 8) else (0x77 / 4 * 4, 4)) ∧
      (0x78, 8) = (if ready.cfg.isWideGranule 1 0x7F then (0x7F / 8 * 8, 8) else (0x7F / 4 * 4, 4)) := by
  decide +kernel

/-- Over a word that is not zero, 0xDEADBEEF again; and 64 bits at SW_B's software digest. -/
theorem witness_WrittenValueReadsBack :
    (∃ s : State, s.cfg.eccEncMasks = defaultEccMasks ∧ s.image.data.wf = true ∧ s.image.ecc.wf = true ∧
      s.err.length = s.cfg.nEntry ∧ s.dai.regwenSw = true ∧ s.dai.fsm = .idle ∧ .daiDone ∉ s.pending ∧
      s.cfg.partitionOf s.dai.address.toNat = some 1 ∧ 1 ≠ s.cfg.lcPart ∧ (s.cfg.desc 1).secret = false ∧
      ¬ ((s.cfg.desc 1).hwDigest = true ∧ s.cfg.isDigestAddress 1 s.dai.address.toNat = true) ∧
      s.isWritable 1 = true ∧ s.isReadable 1 s.dai.address.toNat = true ∧ s.cfg.backendWritable = true ∧
      (0x40, 4) = (if s.cfg.isDigestAddress 1 s.dai.address.toNat then (s.dai.address.toNat / 8 * 8, 8)
        else (s.dai.address.toNat / 4 * 4, 4)) ∧
      clearsBit 0x40 4 (s.dai.wdata1 ++ s.dai.wdata0) s.image = false) ∧
    ∃ s : State, s.cfg.eccEncMasks = defaultEccMasks ∧ s.image.data.wf = true ∧ s.image.ecc.wf = true ∧
      s.err.length = s.cfg.nEntry ∧ s.dai.regwenSw = true ∧ s.dai.fsm = .idle ∧ .daiDone ∉ s.pending ∧
      s.cfg.partitionOf s.dai.address.toNat = some 1 ∧ 1 ≠ s.cfg.lcPart ∧ (s.cfg.desc 1).secret = false ∧
      ¬ ((s.cfg.desc 1).hwDigest = true ∧ s.cfg.isDigestAddress 1 s.dai.address.toNat = true) ∧
      s.isWritable 1 = true ∧ s.isReadable 1 s.dai.address.toNat = true ∧ s.cfg.backendWritable = true ∧
      (0x78, 8) = (if s.cfg.isDigestAddress 1 s.dai.address.toNat then (s.dai.address.toNat / 8 * 8, 8)
        else (s.dai.address.toNat / 4 * 4, 4)) ∧
      clearsBit 0x78 8 (s.dai.wdata1 ++ s.dai.wdata0) s.image = false :=
  ⟨⟨operands 0x43#32 0xDEADBEEF#32 { ready with image := beef }, by decide +kernel⟩,
    ⟨operands 0x7F#32 7#32 { ready with dai := { ready.dai with wdata1 := 0x80000000#32 } }, by decide +kernel⟩⟩

/-- Each rejection and the acceptance. -/
theorem witness_DigestCommandComputes :
    ready.dai.regwenSw = true ∧ ready.dai.fsm = .idle ∧ ready.cfg.partitionOf 0x148 = none ∧
      (ready.cfg.partitionOf 0x147 = some 4 ∧ 4 = ready.cfg.lcPart) ∧
      (ready.cfg.partitionOf 0x00 = some 0 ∧ (ready.cfg.desc 0).hwDigest = false) ∧
      (ready.cfg.partitionOf 0xEF = some 3 ∧ ready.isWritable 3 = false) ∧
      (ready.cfg.partitionOf 0x80 = some 2 ∧ 2 ≠ ready.cfg.lcPart ∧ (ready.cfg.desc 2).hwDigest = true ∧
        ready.isWritable 2 = true ∧ ready.cfg.backendWritable = true ∧
        ({ ready.cfg with backendWritable := false }).backendWritable = false) := by decide +kernel

theorem witness_DaiDoneEndsTheCommand :
    (.daiDone ∈ busy.pending ∧ busy.dai.fsm = .writeWait) ∧
      (.daiDone ∈ (daiWaiting .readWait 1 ready).pending ∧ (daiWaiting .readWait 1 ready).dai.fsm = .readWait) ∧
      (.daiDone ∈ escalatedBusy.pending ∧ escalatedBusy.dai.fsm = .error) := by decide +kernel

theorem witness_DigestCommitOrsTheSlot :
    .daiDone ∈ committing.pending ∧ committing.dai.fsm = .digestWait ∧ committing.dai.part = some 2 ∧
      committing.image.data.wf = true ∧ committing.image.ecc.wf = true ∧
      (committing.cfg.desc 2).digestOffset % 2 = 0 := by decide +kernel

/-- The backing copy of EX1's initial image, with no header and no padding. -/
def noFile : Backing := { header := [], data := [], ecc := [], trailer := [] }

/-- A write with a backing file and a commit without one. -/
theorem witness_WriteBackCopiesWrittenBytes :
    (∃ s : State, s.dai.regwenSw = true ∧ s.dai.fsm = .idle ∧ s.cfg.partitionOf s.dai.address.toNat = some 1 ∧
      1 ≠ s.cfg.lcPart ∧ ¬ ((s.cfg.desc 1).hwDigest = true ∧ s.cfg.isDigestAddress 1 s.dai.address.toNat = true) ∧
      s.isWritable 1 = true ∧ s.cfg.backendWritable = true ∧
      (0x40, 4) = (if s.cfg.isWideGranule 1 s.dai.address.toNat then (s.dai.address.toNat / 8 * 8, 8)
        else (s.dai.address.toNat / 4 * 4, 4)) ∧
      ran (exec (.daiWr 0#30) s) = true ∧ s.backing = some noFile) ∧
    (.daiDone ∈ committing.pending ∧ committing.dai.fsm = .digestWait ∧ committing.dai.part = some 2 ∧
      0xA0 = (committing.cfg.desc 2).digestOffset ∧ ran (exec .fireDaiDone committing) = true ∧
      committing.backing = none) :=
  ⟨⟨{ operands 0x40#32 7#32 ready with backing := some noFile }, by decide +kernel⟩,
    by decide +kernel⟩

theorem witness_LcprogAnswers :
    ready.cfg.lcProgrammable 20 = true ∧ 24 ≤ ready.cfg.lcCntMax ∧ State.reset.lci.fsm = .reset ∧ busy.lci.fsm = .writeWait ∧
      escalated.lci.fsm = .error ∧ ready.lci.fsm = .idle ∧ ready.image.data.wf = true ∧ ready.image.ecc.wf = true := by
  decide +kernel

/-- The first and the last word that has a next one. -/
theorem witness_LciWordDoneProgramsNext :
    ∀ k ∈ [0, 42], .lciWordDone ∈ (lciWaiting k ready).pending ∧ (lciWaiting k ready).lci.fsm ≠ .error ∧
      (lciWaiting k ready).lci.cursor + 1 < (lciWaiting k ready).cfg.lcWords ∧
      (lciWaiting k ready).image.data.wf = true ∧ (lciWaiting k ready).image.ecc.wf = true := by decide +kernel

/-- The last word and Error, each without a backing file and with one. -/
theorem witness_LciLastWordAcknowledges :
    (.lciWordDone ∈ busy.pending ∧ busy.lci.cb = some 7#32 ∧ busy.lci.fsm ≠ .error ∧
      busy.cfg.lcWords ≤ busy.lci.cursor + 1 ∧ busy.backing = none) ∧
    (.lciWordDone ∈ escalatedBusy.pending ∧ escalatedBusy.lci.cb = some 7#32 ∧ escalatedBusy.lci.fsm = .error) ∧
    ({ busy with backing := some noFile }).backing = some noFile ∧ noFile.data.wf = true ∧ noFile.ecc.wf = true := by
  decide +kernel

theorem witness_LciFailAcknowledges : .lciFail 9#32 ∈ (run (.lcprog 0 0 9#32) escalated).pending := by decide +kernel

theorem all_zero {l : List Half} (h : (l.all fun x => decide (x = 0#16)) = true) : ∀ x ∈ l, x = 0#16 := by
  simpa using h

theorem witness_LifeCycleProgramRoundTrip :
    ready.cfg.partTableOk = true ∧ ready.cfg.lcCodecOk = true ∧ 0 < ready.cfg.lcWords ∧ ready.cfg.backendWritable = true ∧
      ready.image.data.wf = true ∧ ready.image.ecc.wf = true ∧ ready.lci.fsm = .idle ∧
      .lciWordDone ∉ ready.pending ∧ ready.cfg.lcProgrammable 20 = true ∧ 24 ≤ ready.cfg.lcCntMax ∧ ready.backing = none ∧
      (∀ h ∈ ready.cfg.lcStateRegion ready.lcStored, h = 0#16) ∧
      (∀ h ∈ ready.cfg.lcCntRegion ready.lcStored, h = 0#16) ∧ ∀ h ∈ ready.lcStored, h = 0#16 := by
  refine ⟨?_, ?_, ?_, ?_, ?_, ?_, ?_, ?_, ?_, ?_, ?_, all_zero ?_, all_zero ?_, all_zero ?_⟩ <;> decide +kernel

theorem witness_LifeCycleCodecRoundTrip : ex1.lcCodecOk = true ∧ ex1.lcProgrammable 20 = true ∧ 24 ≤ ex1.lcCntMax := by
  decide +kernel

theorem witness_EccCorrectsOneDetectsTwo : ex1.eccEncMasks = defaultEccMasks ∧ 20 < 21 ∧ 21 < 22 := by decide +kernel

theorem witness_PowerupPulse : ready.dai.fsm ≠ .reset ∧ State.reset.dai.fsm = .reset := by decide +kernel

theorem cold_fresh (img : Image) : (cold img).freshParts := by
  refine ⟨by simp [cold, State.reset, State.constructed, resetParts], fun q hq => ?_⟩
  simp only [cold, State.reset, State.constructed, resetParts, List.mem_map] at hq
  obtain ⟨p, _, rfl⟩ := hq
  exact ⟨rfl, rfl, rfl, rfl⟩

/-- EX1 with HW_A unbuffered, about to power up: a hardware digest that is not checked. -/
def unbufferedHw (img : Image) : State :=
  let s := cold img
  { s with cfg := { s.cfg with partTable := s.cfg.partTable.modify 2 fun d => { d with buffered := false } } }

/-- The premises, and for each clause an image and a partition: SW_B with two flips; SW_A unlocked and LIFE_CYCLE without a
digest; HW_A with no, the right and a wrong digest; HW_A unbuffered; SW_B with one flip. -/
theorem witness_PowerupDecidesLocks :
    (∀ img : Image, (cold img).cfg.partTableOk = true ∧ (cold img).dai.fsm = .reset ∧ (cold img).freshParts ∧
      (cold img).err.length = (cold img).cfg.nEntry) ∧
    ¬ (cold flawed).readsClean 1 ∧
    ((cold ex1Image).readsClean 4 ∧ ((cold ex1Image).cfg.desc 4).hasDigest = false) ∧
    ((cold ex1Image).readsClean 0 ∧ ((cold ex1Image).cfg.desc 0).swDigest = true) ∧
    ((cold digested).readsClean 2 ∧ ((cold digested).cfg.desc 2).hwDigest = true ∧
      ((cold digested).cfg.desc 2).buffered = true ∧ (cold digested).storedDigest 2 ≠ 0#64 ∧
      (cold digested).cfg.partDigest (cold digested).image 2 ((cold digested).correctedBytes 2) =
        (cold digested).storedDigest 2) ∧
    (cold misdigested).failsCheck 2 ∧
    ((unbufferedHw misdigested).cfg.partTableOk = true ∧ (unbufferedHw misdigested).dai.fsm = .reset ∧
      (unbufferedHw misdigested).freshParts ∧ (unbufferedHw misdigested).readsClean 2 ∧
      ((unbufferedHw misdigested).cfg.desc 2).hwDigest = true ∧
      ((unbufferedHw misdigested).cfg.desc 2).buffered = false ∧
      (unbufferedHw misdigested).storedDigest 2 ≠ 0#64) ∧
    (cold { flawed with data := [(0x48, 0x35#8), (0x49, 0x12#8)], ecc := [(0x24, 0x19#8)] }).corrects 1 := by
  refine ⟨fun img => ⟨show ex1.partTableOk = true by decide +kernel, rfl, cold_fresh img, rfl⟩, ?_, ?_, ?_, ?_, ?_,
    ⟨by decide +kernel, rfl, cold_fresh misdigested, ?_⟩, ?_⟩
  all_goals
    try unfold State.failsCheck
    try unfold State.readsClean
    try unfold State.corrects
    decide +kernel

theorem witness_PowerupLoadsCaches :
    (cold ex1Image).cfg.partTableOk = true ∧ (cold ex1Image).dai.fsm = .reset ∧ (cold ex1Image).freshParts ∧
      (cold ex1Image).readsClean (cold ex1Image).cfg.lcPart ∧
      ¬ (cold { ex1Image with data := [(0xF0, 3#8)] }).readsClean 4 := by
  refine ⟨by decide +kernel, rfl, cold_fresh _, ?_, ?_⟩ <;> unfold State.readsClean <;> decide +kernel

theorem witness_SignalLevels :
    escalated.lcSignals.escalateEn = true ∧ 3 ∈ ready.cfg.seedParts ∧ 3 < ready.parts.length := by decide +kernel

theorem witness_EscalationForcesError :
    ready.lcSignals.escalateEn = false ∧ ready.err.length = ready.cfg.nEntry ∧ ready.parts.length = ready.cfg.nPart ∧
      (0x144#32).toNat % 4 = 0 ∧ (0x144#32).toNat < ready.cfg.swWindowSize ∧ ready.cfg.lcProgrammable 20 = true ∧
      24 ≤ ready.cfg.lcCntMax ∧
      ∃ kt, ready.cfg.keyTypes[0]? = some kt ∧ kt.seedPart < ready.cfg.nPart := by
  refine ⟨by decide +kernel, by decide +kernel, by decide +kernel, by decide +kernel, by decide +kernel,
    by decide +kernel, by decide +kernel, ?_⟩
  exact ⟨_, rfl, by decide +kernel⟩

/-- Life cycle, buffered, not Idle, digest trailer, unreadable; outside every partition for a table that leaves a gap. -/
theorem witness_WindowReadPolicyFaults :
    ((0xF0#32).toNat % 4 = 0 ∧ (0xF0#32).toNat < ready.cfg.swWindowSize ∧
      ready.cfg.partitionOf 0xF0 = some ready.cfg.lcPart) ∧
    (ready.cfg.partitionOf 0xA4 = some 2 ∧ (ready.cfg.desc 2).buffered = true) ∧
    (State.reset.cfg.partitionOf 0 = some 0 ∧ (State.reset.part 0).fsm ≠ .idle) ∧
    (ready.cfg.partitionOf 0x3C = some 0 ∧ ready.cfg.isDigestAddress 0 0x3C = true) ∧
    (run (.wrReadLock 0 0#32) ready).isReadable 0 0x34 = false ∧
    ({ ready.cfg with partTable := ready.cfg.partTable.drop 1 }).partitionOf 0 = none := by decide +kernel

theorem witness_WindowReadAnswersCheckedWord :
    (∀ a ∈ [0x44, 0x48, 0x50], (BitVec.ofNat 32 a).toNat = a ∧ a % 4 = 0 ∧ a < ready.cfg.swWindowSize ∧
      ready.cfg.partitionOf a = some 1 ∧ 1 ≠ ready.cfg.lcPart ∧ (ready.cfg.desc 1).buffered = false ∧
      (ready.part 1).fsm = .idle ∧ ready.cfg.isDigestAddress 1 a = false ∧ ready.isReadable 1 a = true) ∧
    (ready.cfg.eccCheck32 flawed 0x44).2 = .clean ∧ (ready.cfg.eccCheck32 flawed 0x48).2 = .corrected ∧
    (ready.cfg.eccCheck32 flawed 0x50).2 = .uncorrectable := by decide +kernel

theorem witness_WindowWriteFaults : (0x147#32).toNat < ready.cfg.swWindowSize := by decide +kernel

/-- A pool with fewer words than the request needs: the request takes filler draws. -/
theorem witness_KeyRequestConsumesEntropy :
    ∃ kt, ({ ready with pool := { words := [1#32], requested := true } }).cfg.keyTypes[0]? = some kt ∧
      1 < kt.nonceWords + kt.entropyWords ∧ ready.pool.requested = false :=
  ⟨_, rfl, by decide +kernel⟩

/-- A pool with room and a full one. -/
theorem witness_EntropyDeliveryRefills :
    ((run (.entropy 1#32 true) ready).pool.words.length < ready.cfg.entropyCap) ∧
      ready.cfg.entropyCap ≤
        (run (.entropy 9#32 false) { ready with pool := { words := List.replicate 8 1#32, requested := true } }).pool.words.length := by
  decide +kernel

theorem witness_AlertAckClearsOneLatch : 0 < 2 ∧ 1 < 2 := by decide

theorem busy_engineInv : busy.EngineInv := by
  constructor
  case daiPart => exact fun _ => ⟨1, by decide +kernel⟩
  case lciFails =>
    intro cb h
    simp [busy, lciWaiting, daiWaiting, ready] at h
  all_goals decide +kernel

theorem escalatedBusy_engineInv : escalatedBusy.EngineInv := by
  constructor
  case daiPart => exact fun h => absurd h (by decide +kernel)
  case lciFails => exact fun _ _ => by decide +kernel
  all_goals decide +kernel

theorem witness_EngineInvariantIsKept :
    busy.EngineInv ∧ ∃ t, step { busy with inbox := [Kind.fireLciWordDone.code] } = .next t :=
  ⟨busy_engineInv, ran_next (by decide +kernel)⟩

theorem witness_ShapeIsKept :
    busy.ShapeInv ∧ ∃ t, step { busy with inbox := [Kind.pwrup.code] } = .next t := by
  refine ⟨?_, ran_next (by decide +kernel)⟩
  constructor <;> decide +kernel

theorem witness_StorageStaysCanonical :
    0 < busy.cfg.lcWords ∧ busy.EngineInv ∧ ({ busy with image := beef }).StorageInv ∧
      ∃ t, step { busy with inbox := [Kind.fireDaiDone.code] } = .next t := by
  refine ⟨by decide +kernel, busy_engineInv, ⟨by decide +kernel, fun b h => ?_, by decide +kernel⟩,
    ran_next (by decide +kernel)⟩
  simp [busy, lciWaiting, daiWaiting, ready, State.reset, State.constructed] at h

theorem witness_StorageBitsAreOnlySet :
    ({ operands 0x40#32 1#32 ready with image := beef, inbox := cmdFrame 2#32 }).image.data.wf = true ∧
      ∃ t, step { operands 0x40#32 1#32 ready with image := beef, inbox := cmdFrame 2#32 } = .next t :=
  ⟨by decide +kernel, ran_next (by decide +kernel)⟩

/-- In Error with completions owed. -/
theorem witness_ErrorIsTerminal :
    escalatedBusy.EngineInv ∧ (∃ t, exec .fireDaiDone escalatedBusy = .next t) ∧ escalatedBusy.dai.fsm = .error ∧
      escalatedBusy.lci.fsm = .error ∧ (escalatedBusy.part 0).fsm = .error :=
  ⟨escalatedBusy_engineInv, ran_next (by decide +kernel), by decide +kernel, by decide +kernel, by decide +kernel⟩

/-- SW_A locked while SW_B's write and an LCI request are in flight. -/
theorem witness_LockedPartitionsNeverChange :
    busy.cfg.partTableOk = true ∧ aligned4 busy.cfg ∧ 0 < busy.cfg.lcWords ∧ beef.data.wf = true ∧
      beef.ecc.wf = true ∧ busy.EngineInv ∧ 0 < busy.cfg.nPart ∧ 0 ≠ busy.cfg.lcPart ∧
      ((busy.updPart 0 fun q => { q with locked := true }).part 0).locked = true ∧
      ¬ (busy.dai.fsm = .digestWait ∧ busy.dai.part = some 0) ∧ ∃ t, exec .fireLciWordDone busy = .next t := by
  refine ⟨by decide +kernel, ?_, by decide +kernel, by decide +kernel, by decide +kernel, busy_engineInv,
    by decide +kernel, by decide +kernel, by decide +kernel, by decide +kernel, ran_next (by decide +kernel)⟩
  unfold aligned4
  decide +kernel

theorem witness_EnginesTouchDisjointStorage :
    busy.cfg.partTableOk = true ∧ aligned4 busy.cfg ∧ 0 < busy.cfg.lcWords ∧ busy.image.data.wf = true ∧ busy.image.ecc.wf = true ∧
      busy.EngineInv ∧ (∃ t, exec .fireDaiDone busy = .next t) ∧ (∃ t, exec .fireLciWordDone busy = .next t) ∧
      ¬ inPart busy.cfg busy.cfg.lcPart 0xEF := by
  refine ⟨by decide +kernel, ?_, by decide +kernel, by decide +kernel, by decide +kernel, busy_engineInv,
    ran_next (by decide +kernel), ran_next (by decide +kernel), ?_⟩
  · unfold aligned4
    decide +kernel
  · unfold inPart
    decide +kernel

theorem witness_EachComponentHasItsWriters :
    ready.cfg.partTableOk = true ∧
      ∃ t, exec (.daiWr 0#30) (operands 0x40#32 1#32 ready) = .next t :=
  ⟨by decide +kernel, ran_next (by decide +kernel)⟩

/-- Each of the three kinds of file loads: version 2, version 1, and no ECC. -/
theorem witness_FileLoadInvertsFileWrite :
    (∀ f ∈ [fileOf ex1 beef, fileV1, fileOf ex1 { ex1Image with eccEnabled := false }],
      (match construct ex1 (some f) with | .ok _ => true | .error _ => false) = true) ∧
      le32At (fileOf ex1 beef) 8 = 2 ∧ le32At fileV1 8 = 1 ∧
      ex1.otpDataSize % 8 = 0 ∧ 0 < ex1.otpDataSize ∧ ex1.otpDataSize < 4294967296 ∧
      storageWf ex1 beef.data beef.ecc = true ∧
      (({ ex1Image with eccEnabled := false }).eccEnabled = false ∧ ({ ex1Image with eccEnabled := false }).ecc = []) := by
  decide +kernel

end Sys2Proof.Tests

end
end

section
/-! Storage bits are only set (spec/00_scope.md R8): monotonicity of programming, lifted to an operation and a step. -/

namespace Sys2Proof.Machine

/-- Programming is OR (spec/20_memory.md R69), so a DAI write keeps every set bit, wide granule or not. -/
theorem daiProgram_monotone (s : State) (p a : Nat) (hd : s.image.data.wf = true) (k : Nat) :
    s.image.data.get k &&& ~~~(s.daiProgram p a).1.data.get k = 0#8 := by
  unfold State.daiProgram
  split
  · exact program64_monotone s.cfg s.image _ _ hd k
  · exact program32_monotone s.cfg s.image _ _ hd k

/-- The image an operation leaves is the one it found or one it programmed. -/
theorem after_image_monotone (s : State) (i : Instr) (hd : s.image.data.wf = true) (a : Nat) :
    s.image.data.get a &&& ~~~(after s i).image.data.get a = 0#8 := by
  rcases after_image s i with unchanged | ⟨-, -, p, -, -, -, written⟩ | ⟨-, -, p, -, committed⟩ |
    ⟨-, -, k, v, -, programmed⟩
  · rw [unchanged]
    exact BitVec.and_not_self _
  · rw [written]
    exact daiProgram_monotone s p _ hd a
  · rw [committed]
    exact program64_monotone s.cfg s.image _ _ hd a
  · rw [programmed]
    exact program16_monotone s.cfg s.image _ v hd a

theorem exec_image_monotone (i : Instr) (s t : State) (hd : s.image.data.wf = true) (h : exec i s = .next t) (a : Nat) :
    s.image.data.get a &&& ~~~t.image.data.get a = 0#8 := by
  obtain ⟨-, rfl⟩ := exec_next i s t h
  rw [State.updateOutputs_image]
  exact after_image_monotone s i hd a

/-- Settles O55: a step either waits or runs one operation, whose image is the one before it with bits set. -/
theorem storageBitsAreOnlySet : Obligations.StorageBitsAreOnlySet := by
  intro s t hd h a
  obtain ⟨-, ⟨-, rfl⟩ | ⟨i, rest, -, hexec⟩⟩ := step_next s t h
  · exact BitVec.and_not_self _
  · exact exec_image_monotone i { s with inbox := rest } t hd hexec a

end Sys2Proof.Machine
end

section
/-! Decoding an encoded operation gives it back under a usable register map (the frames are the model's own, log 2):
the parts of a frame, command values, register offsets, the window and operands, then every operation. -/

namespace Sys2Proof

/-! ### The parts of a frame -/

@[simp] theorem kindOf_code (k : Kind) : kindOf k.code = some k := by
  cases k <;> rfl

@[simp] theorem decode_kind (c : Config) (k : Kind) (bs : List Byte) : decode c (k.code :: bs) = decodeBody c k bs := by
  simp [decode]

/-- Little-endian bytes of a word, joined again (spec/20_memory.md R76). -/
@[simp] theorem wordOf_bytes (w : Word) :
    wordOf (w.extractLsb' 0 8) (w.extractLsb' 8 8) (w.extractLsb' 16 8) (w.extractLsb' 24 8) = w := by
  have high16 : w.extractLsb' 24 8 ++ w.extractLsb' 16 8 = w.extractLsb' 16 16 :=
    BitVec.extractLsb'_append_extractLsb'_eq_extractLsb' rfl
  have high24 : w.extractLsb' 16 16 ++ w.extractLsb' 8 8 = w.extractLsb' 8 24 :=
    BitVec.extractLsb'_append_extractLsb'_eq_extractLsb' rfl
  have all32 : w.extractLsb' 8 24 ++ w.extractLsb' 0 8 = w.extractLsb' 0 32 :=
    BitVec.extractLsb'_append_extractLsb'_eq_extractLsb' rfl
  rw [wordOf, high16, high24, all32, BitVec.extractLsb'_eq_self]

@[simp] theorem decodeBool_boolByte (b : Bool) : decodeBool (boolByte b) = some b := by
  cases b <;> rfl

@[simp] theorem decodeSignal_code (n : LcSignal) : decodeSignal n.code = some n := by
  cases n <;> rfl

theorem decode_cmdFrame (c : Config) (v : Word) (rest : List Byte) :
    decode c (cmdFrame v ++ rest) = .ok (daiCommandOf v, rest) := by
  simp [cmdFrame, wordBytes, decodeBody]

theorem decode_readFrame (c : Config) (off : Word) (rest : List Byte) :
    decode c (readFrame off ++ rest) = decodeRead c off 4#8 rest := by
  simp [readFrame, wordBytes, decodeBody]

theorem decode_writeFrame (c : Config) (off v : Word) (rest : List Byte) :
    decode c (writeFrame off v ++ rest) = decodeWrite c off 4#8 v rest := by
  simp [writeFrame, wordBytes, decodeBody]

/-! ### Command values: the lowest set bit selects (spec/30_encoding.md R108) -/

/-- Appending the ignored bits above a command's selecting bits leaves these as they are. -/
theorem getLsbD_append_low {n k : Nat} (ign : BitVec n) (v : BitVec k) (i : Nat) (hi : i < k) :
    (ign ++ v).getLsbD i = v.getLsbD i := by
  rw [BitVec.getLsbD_append, if_pos hi]

theorem daiCommandOf_rd (ign : BitVec 31) : daiCommandOf (ign ++ 1#1) = .daiRd ign := by
  have bit0 : BitVec.getLsbD (w := 32) (ign ++ 1#1) 0 = true := getLsbD_append_low ign 1#1 0 (by decide)
  have ignored : BitVec.extractLsb' (n := 32) 1 31 (ign ++ 1#1) = ign := BitVec.extractLsb'_append_eq_left
  simp only [daiCommandOf, bit0, ignored, if_true]

theorem daiCommandOf_wr (ign : BitVec 30) : daiCommandOf (ign ++ 2#2) = .daiWr ign := by
  have bit0 : BitVec.getLsbD (w := 32) (ign ++ 2#2) 0 = false := getLsbD_append_low ign 2#2 0 (by decide)
  have bit1 : BitVec.getLsbD (w := 32) (ign ++ 2#2) 1 = true := getLsbD_append_low ign 2#2 1 (by decide)
  have ignored : BitVec.extractLsb' (n := 32) 2 30 (ign ++ 2#2) = ign := BitVec.extractLsb'_append_eq_left
  simp only [daiCommandOf, bit0, bit1, ignored, Bool.false_eq_true, if_true, if_false]

theorem daiCommandOf_digest (ign : BitVec 29) : daiCommandOf (ign ++ 4#3) = .daiDigest ign := by
  have bit0 : BitVec.getLsbD (w := 32) (ign ++ 4#3) 0 = false := getLsbD_append_low ign 4#3 0 (by decide)
  have bit1 : BitVec.getLsbD (w := 32) (ign ++ 4#3) 1 = false := getLsbD_append_low ign 4#3 1 (by decide)
  have bit2 : BitVec.getLsbD (w := 32) (ign ++ 4#3) 2 = true := getLsbD_append_low ign 4#3 2 (by decide)
  have ignored : BitVec.extractLsb' (n := 32) 3 29 (ign ++ 4#3) = ign := BitVec.extractLsb'_append_eq_left
  simp only [daiCommandOf, bit0, bit1, bit2, ignored, Bool.false_eq_true, if_true, if_false]

theorem daiCommandOf_none (ign : BitVec 29) : daiCommandOf (ign ++ 0#3) = .daiNone ign := by
  have bit0 : BitVec.getLsbD (w := 32) (ign ++ 0#3) 0 = false := getLsbD_append_low ign 0#3 0 (by decide)
  have bit1 : BitVec.getLsbD (w := 32) (ign ++ 0#3) 1 = false := getLsbD_append_low ign 0#3 1 (by decide)
  have bit2 : BitVec.getLsbD (w := 32) (ign ++ 0#3) 2 = false := getLsbD_append_low ign 0#3 2 (by decide)
  have ignored : BitVec.extractLsb' (n := 32) 3 29 (ign ++ 0#3) = ign := BitVec.extractLsb'_append_eq_left
  simp only [daiCommandOf, bit0, bit1, bit2, ignored, Bool.false_eq_true, if_false]

/-! ### Register offsets (spec/30_encoding.md R101, R114) -/

/-- What a usable map says of one entry: its offset is a 4-aligned 32-bit number. -/
theorem Config.regmapOk_offset {c : Config} (hc : c.regmapOk = true) {r : Reg} {o : Nat} (h : (r, o) ∈ c.regmap) :
    o % 4 = 0 ∧ o < 4294967296 := by
  simp only [Config.regmapOk, Bool.and_eq_true, List.all_eq_true, decide_eq_true_eq] at hc
  obtain ⟨⟨hall, -⟩, -⟩ := hc
  obtain ⟨⟨-, haligned⟩, hlt⟩ := hall (r, o) h
  exact ⟨haligned, hlt⟩

/-- A listed offset reaches its own register: no offset stands twice in a usable map. -/
theorem Config.regAt_of_mem {c : Config} (hc : c.regmapOk = true) {r : Reg} {o : Nat} (h : (r, o) ∈ c.regmap) :
    c.regAt o = some r := by
  simp only [Config.regmapOk, Bool.and_eq_true, decide_eq_true_eq] at hc
  obtain ⟨-, hnodup⟩ := hc
  have hsome : (c.regmap.find? fun e => decide (e.2 = o)).isSome = true :=
    List.find?_isSome.2 ⟨(r, o), h, by simp⟩
  obtain ⟨e, he⟩ := Option.isSome_iff_exists.1 hsome
  have heo : e.2 = o := by simpa using List.find?_some he
  have heq : e = (r, o) := List.inj_on_of_nodup_map hnodup (List.mem_of_find?_eq_some he) h heo
  rw [Config.regAt, he, heq]
  rfl

theorem Config.mem_of_offsetOf {c : Config} {r : Reg} {o : Nat} (h : c.offsetOf r = some o) : (r, o) ∈ c.regmap := by
  obtain ⟨e, he, rfl⟩ := Option.map_eq_some_iff.1 h
  have her : e.1 = r := by simpa using List.find?_some he
  rw [← her]
  exact List.mem_of_find?_eq_some he

/-- The 32-bit access at the offset of a mapped register passes every check and reaches that register. -/
theorem regAccess_offsetWord {c : Config} (hc : c.regmapOk = true) {r : Reg} (hr : c.mapped r = true) :
    regAccess c (c.offsetWord r) 4#8 = .ok r := by
  simp only [Config.mapped, Bool.and_eq_true] at hr
  obtain ⟨o, ho⟩ := Option.isSome_iff_exists.1 hr.2
  have hmem := Config.mem_of_offsetOf ho
  obtain ⟨haligned, hlt⟩ := Config.regmapOk_offset hc hmem
  have hword : (c.offsetWord r).toNat = o := by
    simp [Config.offsetWord, ho, Nat.mod_eq_of_lt hlt]
  simp [regAccess, hword, haligned, Config.regAt_of_mem hc hmem]

/-! ### Bus operations: each is the read or the write of its register -/

theorem Instr.eq_readOp_or_writeOp {i : Instr} {r : Reg} (h : i.reg = some r) :
    i = r.readOp ∨ ∃ v, i = r.writeOp v := by
  cases i <;> cases h <;> simp [Reg.readOp, Reg.writeOp]

@[simp] theorem encode_readOp (c : Config) (r : Reg) : encode c r.readOp = readFrame (c.offsetWord r) := by
  cases r <;> rfl

@[simp] theorem encode_writeOp (c : Config) (v : Word) (r : Reg) :
    encode c (r.writeOp v) = writeFrame (c.offsetWord r) v := by
  cases r <;> rfl

@[simp] theorem readOp_wf (c : Config) (r : Reg) : r.readOp.wf c = c.mapped r := by
  cases r <;> rfl

@[simp] theorem writeOp_wf (c : Config) (v : Word) (r : Reg) : (r.writeOp v).wf c = c.mapped r := by
  cases r <;> rfl

theorem decode_encode_readOp {c : Config} (hc : c.regmapOk = true) {r : Reg} (hr : c.mapped r = true)
    (rest : List Byte) : decode c (encode c r.readOp ++ rest) = .ok (r.readOp, rest) := by
  rw [encode_readOp, decode_readFrame, decodeRead, regAccess_offsetWord hc hr]

theorem decode_encode_writeOp {c : Config} (hc : c.regmapOk = true) {r : Reg} (hr : c.mapped r = true) (v : Word)
    (rest : List Byte) : decode c (encode c (r.writeOp v) ++ rest) = .ok (r.writeOp v, rest) := by
  rw [encode_writeOp, decode_writeFrame, decodeWrite, regAccess_offsetWord hc hr]

theorem decode_encode_of_reg {c : Config} (hc : c.regmapOk = true) {i : Instr} {r : Reg} (hr : i.reg = some r)
    (hi : i.wf c = true) (rest : List Byte) : decode c (encode c i ++ rest) = .ok (i, rest) := by
  obtain rfl | ⟨v, rfl⟩ := Instr.eq_readOp_or_writeOp hr
  · exact decode_encode_readOp hc ((readOp_wf c r).symm.trans hi) rest
  · exact decode_encode_writeOp hc ((writeOp_wf c v r).symm.trans hi) v rest

/-! ### The window and operands in range (spec/46_registers.md R320, spec/30_encoding.md R142) -/

theorem windowOffset_windowAddress {c : Config} {woff : Word} (h : c.inWindow woff = true) :
    windowOffset c (c.windowAddress woff) = .ok woff := by
  simp only [Config.inWindow, Bool.and_eq_true, decide_eq_true_eq] at h
  obtain ⟨hsize, hfits⟩ := h
  have haddr : (c.windowAddress woff).toNat = c.swWindowBase + woff.toNat := by
    simp [Config.windowAddress, Nat.mod_eq_of_lt hfits]
  have hinside : ¬ (c.swWindowBase + woff.toNat < c.swWindowBase ∨
      c.swWindowSize ≤ c.swWindowBase + woff.toNat - c.swWindowBase) := by omega
  rw [windowOffset, haddr, if_neg hinside, Nat.add_sub_cancel_left, BitVec.ofNat_toNat, BitVec.setWidth_eq]

theorem decode_encode_wrd {c : Config} {woff : Word} (hi : (Instr.wrd woff).wf c = true) (rest : List Byte) :
    decode c (encode c (.wrd woff) ++ rest) = .ok (.wrd woff, rest) := by
  simp only [Instr.wf, Instr.operandsOk, Bool.and_eq_true, decide_eq_true_eq] at hi
  obtain ⟨haligned, hwindow⟩ := hi
  simp [encode, wordBytes, decodeBody, decodeWinRead, windowOffset_windowAddress hwindow, haligned]

theorem decode_encode_wwr {c : Config} {woff v : Word} (hi : (Instr.wwr woff v).wf c = true) (rest : List Byte) :
    decode c (encode c (.wwr woff v) ++ rest) = .ok (.wwr woff v, rest) := by
  have hwindow : c.inWindow woff = true := hi
  simp [encode, wordBytes, decodeBody, decodeWinWrite, windowOffset_windowAddress hwindow]

/-- A programmable state fits its byte, since its index has 5 bits. -/
theorem decode_encode_lcprog {c : Config} {st cnt : Nat} {cb : CallbackId}
    (hi : (Instr.lcprog st cnt cb).wf c = true) (rest : List Byte) :
    decode c (encode c (.lcprog st cnt cb) ++ rest) = .ok (.lcprog st cnt cb, rest) := by
  simp only [Instr.wf, Instr.operandsOk, Bool.and_eq_true, decide_eq_true_eq] at hi
  obtain ⟨⟨hst, hmax⟩, hcnt⟩ := hi
  have hst32 : st < 32 := by
    simp only [Config.lcProgrammable, Bool.and_eq_true, decide_eq_true_eq] at hst
    exact hst.1
  have hstByte : (BitVec.ofNat 8 st).toNat = st := by simp; omega
  have hcntWord : (BitVec.ofNat 32 cnt).toNat = cnt := by simp; omega
  simp [encode, wordBytes, decodeBody, decodeLcprog, hstByte, hcntWord, hst, hmax]

theorem decode_encode_getkey {c : Config} {k : Nat} (hi : (Instr.getkey k).wf c = true) (rest : List Byte) :
    decode c (encode c (.getkey k) ++ rest) = .ok (.getkey k, rest) := by
  simp only [Instr.wf, Instr.operandsOk, Bool.and_eq_true, decide_eq_true_eq] at hi
  obtain ⟨hkey, hbyte⟩ := hi
  simp [encode, decodeBody, Nat.mod_eq_of_lt hbyte, hkey]

theorem decode_encode_alertack {c : Config} {k : Nat} (hi : (Instr.alertack k).wf c = true) (rest : List Byte) :
    decode c (encode c (.alertack k) ++ rest) = .ok (.alertack k, rest) := by
  have hk : k < 2 := of_decide_eq_true hi
  have hbyte : (BitVec.ofNat 8 k).toNat = k := by simp; omega
  simp [encode, decodeBody, hbyte, hk]

/-! ### Every operation -/

/-- Operations of the bus go by their register's offset, the others by their kind. -/
theorem decode_encode {c : Config} (hc : c.regmapOk = true) {i : Instr} (hi : i.wf c = true) (rest : List Byte) :
    decode c (encode c i ++ rest) = .ok (i, rest) := by
  cases hr : i.reg with
  | some r => exact decode_encode_of_reg hc hr hi rest
  | none =>
    cases i with
    | daiRd ign => rw [encode, decode_cmdFrame, daiCommandOf_rd]
    | daiWr ign => rw [encode, decode_cmdFrame, daiCommandOf_wr]
    | daiDigest ign => rw [encode, decode_cmdFrame, daiCommandOf_digest]
    | daiNone ign => rw [encode, decode_cmdFrame, daiCommandOf_none]
    | wrd woff => exact decode_encode_wrd hi rest
    | wwr woff v => exact decode_encode_wwr hi rest
    | lcprog st cnt cb => exact decode_encode_lcprog hi rest
    | getkey k => exact decode_encode_getkey hi rest
    | alertack k => exact decode_encode_alertack hi rest
    | lcsig n level => simp [encode, decodeBody, decodeLcsig]
    | entropy bits fips => simp [encode, wordBytes, decodeBody]
    | fireLciFail cb => simp [encode, wordBytes, decodeBody]
    | pwrup | getlc | gethw | fireDaiDone | fireLciWordDone | reset => simp [encode, decodeBody]
    | _ => cases hr

end Sys2Proof
end

section
/-! What a step runs (spec/00_scope.md R7; the presentation is the model's own, log 2 and log 8). -/

namespace Sys2Proof.Machine

theorem fetch_of_decode {s : State} {i : Instr} {rest : List Byte} (h : decode s.cfg s.inbox = .ok (i, rest)) :
    fetch s = .ok (some (i, { s with inbox := rest })) := by
  unfold fetch
  split
  · rename_i hempty
    rw [hempty] at h
    cases h
  · rw [h]

/-- A step runs the operation the presented bytes decode to. -/
theorem step_of_decode {s : State} {i : Instr} {rest : List Byte} (htable : s.cfg.partTableOk = true)
    (h : decode s.cfg s.inbox = .ok (i, rest)) : step s = exec i { s with inbox := rest } := by
  rw [step, if_pos htable, fetch_of_decode h]

/-- With nothing presented a step changes nothing. -/
theorem step_of_inbox_nil {s : State} (htable : s.cfg.partTableOk = true) (h : s.inbox = []) : step s = .next s := by
  have hfetch : fetch s = .ok none := by rw [fetch, h]
  rw [step, if_pos htable, hfetch]

/-- Settles O1: what a step fetches is what its bytes decode to, or nothing. -/
theorem stepRunsDecodedOperation : Obligations.StepRunsDecodedOperation :=
  ⟨fun _ _ _ htable h => step_of_decode htable h, fun _ htable h => step_of_inbox_nil htable h⟩

/-- Settles O2: the frame of an admitted operation decodes to it, and a step runs what it decodes. -/
theorem presentedOperationRuns : Obligations.PresentedOperationRuns := by
  intro s i rest htable hmap hi
  exact step_of_decode (s := { s with inbox := encode s.cfg i ++ rest }) htable (decode_encode hmap hi rest)

end Sys2Proof.Machine
end

section
/-! The state after construction meets the invariants (spec/10_state.md R37, R40; spec/47_interfaces.md R349). -/

namespace Sys2Proof.Machine

variable (c : Config) (img : Image) (b : Option Backing)

theorem constructed_engineInv : (State.constructed c img b).EngineInv := by
  by_cases room : 0 < c.entropyCap <;>
    constructor <;> simp [State.constructed, resetDai, resetLci, DaiFsm.waits, room]

theorem resetPart_buffer_length (p : Nat) :
    (resetPart c p).buffer.length = if (c.desc p).buffered then (c.desc p).byteSize else 0 := by
  unfold resetPart
  split <;> simp

theorem part_of_resetParts {s : State} (h : s.parts = resetParts c) {p : Nat} (hp : p < c.nPart) :
    s.part p = resetPart c p := by
  simp [State.part, h, resetParts, List.getD_eq_getElem?_getD, hp]

theorem constructed_shapeInv : (State.constructed c img b).ShapeInv where
  parts := by simp [State.constructed, resetParts]
  err := by simp [State.constructed, resetErr]
  readEn := by simp [State.constructed, resetReadEn]
  lciBuf := by simp [State.constructed, resetLci]
  buffers p hp := by rw [part_of_resetParts c rfl hp]; exact resetPart_buffer_length c p
  pool := by simp [State.constructed, resetPool]
  tokens := by simp [State.constructed, resetLcInfo, resetToken]
  hwcfg := by simp [State.constructed, resetHwCfg]

theorem constructed_lastIrq (k : Fin 2) :
    lastIrq k (State.constructed c img b).outputs = (State.constructed c img b).line k.val := by
  by_cases room : 0 < c.entropyCap <;> simp [State.constructed, lastIrq, irqAfter, State.line, room]

theorem reset_storageInv : State.reset.StorageInv where
  image := by decide
  backing _ h := by cases h
  cursor h := by revert h; decide

/-- Settles O51: the reset values have the shapes, and the one event of construction is the entropy request. -/
theorem constructionMeetsInvariants : Obligations.ConstructionMeetsInvariants :=
  ⟨fun c img b => ⟨constructed_engineInv c img b, constructed_shapeInv c img b, constructed_lastIrq c img b⟩,
    reset_storageInv⟩

end Sys2Proof.Machine
end

section
/-! The invariant of the engines and the pending events (spec/10_state.md R36, R37; spec/45_keyderiv.md R280): its parts
for the DAI, the LCI and the pool, what each engine operation does to its own part, then every operation and step. -/

namespace Sys2Proof.Machine

/-! ### The parts of the invariant -/

/-- The DAI's part of the engine invariant, where `n` completions are pending. -/
structure Dai.Sound (c : Config) (n : Nat) (d : Dai) : Prop where
  counted : n = d.pending.toNat
  waits : d.fsm.waits = true → d.pending = true
  owed : d.pending = true → d.fsm.waits = true ∨ d.fsm = .error
  stable : d.fsm ≠ .init ∧ d.fsm ≠ .read ∧ d.fsm ≠ .write ∧ d.fsm ≠ .digest
  part : d.fsm.waits = true →
    ∃ p, d.part = some p ∧ p < c.nPart ∧ p ≠ c.lcPart ∧ (d.fsm = .digestWait → (c.desc p).hwDigest = true)

/-- The LCI's part of the engine invariant, where `n` word completions are pending. -/
structure Lci.Sound (n : Nat) (l : Lci) : Prop where
  once : n ≤ 1
  waits : l.fsm = .writeWait → 0 < n
  owed : 0 < n → l.fsm = .writeWait ∨ l.fsm = .error
  stable : l.fsm ≠ .write
  callback : l.cb.isSome = true ↔ 0 < n

theorem DaiFsm.ne_of_waits {f : DaiFsm} (h : f.waits = true) :
    (f ≠ .init ∧ f ≠ .read ∧ f ≠ .write ∧ f ≠ .digest) ∧ f ≠ .reset := by
  cases f <;> simp [DaiFsm.waits] at h ⊢

/-- A DAI at rest owes nothing. -/
theorem Dai.Sound.of_idle (c : Config) {d : Dai} (fsm : d.fsm = .idle) (free : d.pending = false) : d.Sound c 0 := by
  constructor <;> simp [fsm, free, DaiFsm.waits]

/-- A failed DAI may still owe the completion it scheduled. -/
theorem Dai.Sound.of_error (c : Config) {d : Dai} (fsm : d.fsm = .error) : d.Sound c d.pending.toNat := by
  constructor <;> simp [fsm, DaiFsm.waits]

theorem State.engineInv_iff (s : State) : s.EngineInv ↔
    s.dai.Sound s.cfg (s.pending.count .daiDone) ∧ s.lci.Sound (s.pending.count .lciWordDone) ∧
    (∀ cb, 0 < s.pending.count (.lciFail cb) → s.lci.fsm = .error) ∧
    s.pending.count .entropyRequest = s.pool.requested.toNat ∧ (s.dai.fsm = .reset ↔ s.lci.fsm = .reset) := by
  simp only [List.count_pos_iff]
  constructor
  · intro h
    exact ⟨⟨h.daiDone, h.daiWaits, h.daiOwed, h.daiStable, h.daiPart⟩,
      ⟨h.lciOnce, by simpa using h.lciWaits, by simpa using h.lciOwed, h.lciStable, by simpa using h.lciCallback⟩,
      h.lciFails, h.entropy, h.together⟩
  · rintro ⟨d, l, fails, entropy, together⟩
    exact ⟨d.counted, d.waits, d.owed, d.stable, d.part, l.once, by simpa using l.waits, by simpa using l.owed,
      l.stable, by simpa using l.callback, fails, entropy, together⟩

variable {s t : State}

/-- The invariant follows the DAI: a change of the DAI and its events alone keeps the rest. -/
theorem State.EngineInv.of_dai (h : s.EngineInv) (cfg : t.cfg = s.cfg) (lci : t.lci = s.lci) (pool : t.pool = s.pool)
    (others : ∀ e, e ≠ .daiDone → t.pending.count e = s.pending.count e)
    (sound : t.dai.Sound s.cfg (t.pending.count .daiDone)) (reset : t.dai.fsm = .reset ↔ s.dai.fsm = .reset) :
    t.EngineInv := by
  obtain ⟨-, l, fails, entropy, together⟩ := s.engineInv_iff.mp h
  rw [State.engineInv_iff, cfg, lci, pool, others .lciWordDone (by decide), others .entropyRequest (by decide), reset]
  exact ⟨sound, l, fun cb => others (.lciFail cb) (by simp) ▸ fails cb, entropy, together⟩

/-- The same for the LCI. -/
theorem State.EngineInv.of_lci (h : s.EngineInv) (cfg : t.cfg = s.cfg) (dai : t.dai = s.dai) (pool : t.pool = s.pool)
    (done : t.pending.count .daiDone = s.pending.count .daiDone)
    (request : t.pending.count .entropyRequest = s.pending.count .entropyRequest)
    (sound : t.lci.Sound (t.pending.count .lciWordDone))
    (fails : ∀ cb, 0 < t.pending.count (.lciFail cb) → t.lci.fsm = .error)
    (reset : t.lci.fsm = .reset ↔ s.lci.fsm = .reset) : t.EngineInv := by
  obtain ⟨d, -, -, entropy, together⟩ := s.engineInv_iff.mp h
  rw [State.engineInv_iff, cfg, dai, pool, done, request, reset]
  exact ⟨d, sound, fails, entropy, together⟩

/-- The same for the entropy pool. -/
theorem State.EngineInv.of_pool (h : s.EngineInv) (cfg : t.cfg = s.cfg) (dai : t.dai = s.dai) (lci : t.lci = s.lci)
    (others : ∀ e, e ≠ .entropyRequest → t.pending.count e = s.pending.count e)
    (entropy : t.pending.count .entropyRequest = t.pool.requested.toNat) : t.EngineInv := by
  obtain ⟨d, l, fails, -, together⟩ := s.engineInv_iff.mp h
  rw [State.engineInv_iff, cfg, dai, lci, others .daiDone (by decide), others .lciWordDone (by decide)]
  exact ⟨d, l, fun cb => others (.lciFail cb) (by simp) ▸ fails cb, entropy, together⟩

/-- The invariant looks at the FSM, the partition and the owed completion of the DAI, not at its registers. -/
theorem State.EngineInv.of_same (h : s.EngineInv) (cfg : t.cfg = s.cfg) (lci : t.lci = s.lci) (pool : t.pool = s.pool)
    (events : t.pending = s.pending) (fsm : t.dai.fsm = s.dai.fsm) (part : t.dai.part = s.dai.part)
    (owed : t.dai.pending = s.dai.pending) : t.EngineInv := by
  obtain ⟨d, -⟩ := s.engineInv_iff.mp h
  refine h.of_dai cfg lci pool (fun e _ => by rw [events]) ?_ (by rw [fsm])
  constructor <;> simp only [events, fsm, part, owed]
  exacts [d.counted, d.waits, d.owed, d.stable, d.part]

/-! ### The DAI -/

/-- What an accepted DAI command leaves of the DAI: at rest or failed with nothing scheduled, or waiting for a partition
(spec/42_dai.md R203 to R205, R210, R215). -/
inductive State.DaiEnd (s t : State) : Prop
  | rests (fsm : t.dai.fsm = .idle ∨ t.dai.fsm = .error) (owed : t.dai.pending = s.dai.pending)
      (events : t.pending = s.pending)
  | waits (p : Nat) (part : t.dai.part = some p) (inTable : p < s.cfg.nPart) (notLc : p ≠ s.cfg.lcPart)
      (fsm : t.dai.fsm.waits = true) (digest : t.dai.fsm = .digestWait → (s.cfg.desc p).hwDigest = true)
      (owed : t.dai.pending = true) (events : t.pending = s.pending ++ [.daiDone])

theorem State.regwen_idle (h : s.regwen = true) : s.dai.fsm = .idle := by
  simp only [State.regwen, Bool.and_eq_true, decide_eq_true_eq] at h
  exact h.2

theorem reject_daiEnd (x : DaiFsm) (code : ErrCode) : s.DaiEnd ((s.daiAccept x).reject code) :=
  .rests (.inl rfl) rfl rfl

theorem daiPublish_daiEnd (x : DaiFsm) {p : Nat} (hp : p < s.cfg.nPart) (hl : p ≠ s.cfg.lcPart) (v : DWord)
    (sev : Severity) : s.DaiEnd ((s.daiAccept x).daiPublish p v sev) := by
  unfold State.daiPublish
  dsimp only
  split
  all_goals
    split
    · exact .rests (.inl rfl) rfl rfl
    · exact .waits p rfl hp hl rfl (fun h => by cases h) rfl rfl

theorem daiRead_daiEnd : s.DaiEnd (daiRead s) := by
  rcases daiRead_cases s with e | ⟨p, hp, hl, -, ⟨-, e⟩ | ⟨-, e⟩⟩ <;> rw [e]
  · exact reject_daiEnd _ _
  · exact .rests (.inr rfl) rfl rfl
  · exact daiPublish_daiEnd _ (partitionOf_some _ _ _ hp).1 hl _ _

theorem daiWrite_daiEnd : s.DaiEnd (daiWrite s) := by
  rcases daiWrite_cases s with e | e | ⟨p, hp, hl, -, e⟩ <;> rw [e]
  · exact reject_daiEnd _ _
  · exact reject_daiEnd _ _
  · exact .waits p rfl (partitionOf_some _ _ _ hp).1 hl rfl (fun h => by cases h) rfl (by simp)

theorem hwDigest_of_digestRefusal {p : Nat} (h : s.digestRefusal p = none) : (s.cfg.desc p).hwDigest = true := by
  by_contra no
  rw [Bool.not_eq_true] at no
  simp [State.digestRefusal, no] at h

theorem daiDigest_daiEnd : s.DaiEnd (daiDigest s) := by
  rcases daiDigest_cases s with e | e | ⟨p, hp, hl, hd, e⟩ <;> rw [e]
  · exact reject_daiEnd _ _
  · exact reject_daiEnd _ _
  · exact .waits p rfl (partitionOf_some _ _ _ hp).1 hl rfl (fun _ => hwDigest_of_digestRefusal hd) rfl rfl

/-- An idle DAI owes nothing, so that a command may leave it at rest, failed or waiting. -/
theorem State.EngineInv.of_daiEnd (h : s.EngineInv) (idle : s.dai.fsm = .idle) (ends : s.DaiEnd t)
    (cfg : t.cfg = s.cfg) (lci : t.lci = s.lci) (pool : t.pool = s.pool) : t.EngineInv := by
  have free : s.dai.pending = false := by
    by_contra owed
    simpa [idle, DaiFsm.waits] using h.daiOwed (by simpa using owed)
  have none : s.pending.count .daiDone = 0 := by rw [h.daiDone, free]; rfl
  cases ends with
  | rests fsm owed events =>
    refine h.of_dai cfg lci pool (fun e _ => by rw [events]) ?_ ?_
    · rw [events, none]
      rcases fsm with idle | failed
      · exact .of_idle _ idle (owed.trans free)
      · have sound := Dai.Sound.of_error s.cfg failed
        rwa [owed, free] at sound
    · rcases fsm with fsm | fsm <;> simp [fsm, idle]
  | waits p part inTable notLc fsm digest owed events =>
    refine h.of_dai cfg lci pool (fun e he => by simp [events, Ne.symm he]) ?_ ?_
    · exact ⟨by simp [events, none, owed], fun _ => owed, fun _ => .inl fsm,
        (DaiFsm.ne_of_waits fsm).1, fun _ => ⟨p, part, inTable, notLc, digest⟩⟩
    · simp [(DaiFsm.ne_of_waits fsm).2, idle]

theorem daiGate_engineInv (h : s.EngineInv) {f : State → State} (kept : s.dai.fsm = .idle → (f s).EngineInv) :
    (daiGate f s).EngineInv := by
  unfold daiGate
  split
  · exact kept (State.regwen_idle ‹_›)
  · exact h

theorem daiRead_engineInv (h : s.EngineInv) (idle : s.dai.fsm = .idle) : (daiRead s).EngineInv :=
  h.of_daiEnd idle daiRead_daiEnd (by simp) (by simp) (by simp)

theorem daiWrite_engineInv (h : s.EngineInv) (idle : s.dai.fsm = .idle) : (daiWrite s).EngineInv :=
  h.of_daiEnd idle daiWrite_daiEnd (by simp) (by simp) (by simp)

theorem daiDigest_engineInv (h : s.EngineInv) (idle : s.dai.fsm = .idle) : (daiDigest s).EngineInv :=
  h.of_daiEnd idle daiDigest_daiEnd (by simp) (by simp) (by simp)

theorem daiCommand_engineInv (h : s.EngineInv) (idle : s.dai.fsm = .idle) (v : Word) : (daiCommand v s).EngineInv := by
  unfold daiCommand
  split
  · exact daiRead_engineInv h idle
  split
  · exact daiWrite_engineInv h idle
  split
  · exact daiDigest_engineInv h idle
  · exact h

/-- The DAI after its completion fired: still failed, else at rest (spec/42_dai.md R220, R221). -/
theorem daiDone_dai (s : State) : (daiDone s).dai.pending = false ∧
    (daiDone s).dai.fsm = if s.dai.fsm = .error then .error else .idle := by
  unfold daiDone
  dsimp only
  split <;> simp_all

theorem daiDone_engineInv (h : s.EngineInv) (fired : .daiDone ∈ s.pending) : (daiDone s).EngineInv := by
  obtain ⟨settled, fsm⟩ := daiDone_dai s
  have owed : s.dai.pending = true := by
    by_contra free
    have none : s.pending.count .daiDone = 0 := by rw [h.daiDone, Bool.eq_false_iff.mpr free]; rfl
    exact List.count_eq_zero.mp none fired
  have gone : (daiDone s).pending.count .daiDone = 0 := by
    rw [daiDone_pending, List.count_erase_self, h.daiDone, owed]
    rfl
  refine h.of_dai (by simp) (by simp) (by simp)
    (fun e he => by rw [daiDone_pending, List.count_erase_of_ne he]) ?_ ?_
  · rw [gone]
    split at fsm
    · have sound := Dai.Sound.of_error s.cfg fsm
      rwa [settled] at sound
    · exact .of_idle _ fsm settled
  · rw [fsm]
    rcases h.daiOwed owed with waiting | failed
    · have started : s.dai.fsm ≠ .reset := (DaiFsm.ne_of_waits waiting).2
      split <;> simp [started]
    · simp [failed]

/-! ### The LCI -/

theorem Lci.Sound.of_idle {l : Lci} (fsm : l.fsm = .idle) (released : l.cb = none) : l.Sound 0 := by
  constructor <;> simp [fsm, released]

/-- A failed LCI may still owe the word it scheduled, and holds its callback till then. -/
theorem Lci.Sound.of_error {l : Lci} {n : Nat} (once : n ≤ 1) (fsm : l.fsm = .error)
    (callback : l.cb.isSome = true ↔ 0 < n) : l.Sound n :=
  ⟨once, by simp [fsm], fun _ => .inr fsm, by simp [fsm], callback⟩

theorem Lci.Sound.of_writeWait {l : Lci} (fsm : l.fsm = .writeWait) (held : l.cb.isSome = true) : l.Sound 1 := by
  constructor <;> simp [fsm, held]

/-- Only a failed LCI owes failure callbacks, so that an LCI that has not failed finds none. -/
theorem State.EngineInv.no_lciFail (h : s.EngineInv) (working : s.lci.fsm ≠ .error) (cb : CallbackId) :
    s.pending.count (.lciFail cb) = 0 :=
  List.count_eq_zero.mpr fun owed => working (h.lciFails cb owed)

@[simp] theorem State.lciWriteWord_lci_fsm (s : State) : s.lciWriteWord.lci.fsm = .writeWait := rfl

@[simp] theorem State.lciWriteWord_lci_cb (s : State) : s.lciWriteWord.lci.cb = s.lci.cb := by
  simp [State.lciWriteWord]

@[simp] theorem State.lciWriteWord_pending (s : State) : s.lciWriteWord.pending = s.pending ++ [.lciWordDone] := rfl

@[simp] theorem State.lciFinish_lci_fsm (s : State) : s.lciFinish.lci.fsm = .idle := by
  simp [State.lciFinish]

@[simp] theorem State.lciFinish_lci_cb (s : State) : s.lciFinish.lci.cb = none := by
  simp [State.lciFinish]

/-- LCPROG on an idle LCI: the first word waits and the request holds its callback (spec/43_lci.md R243, R244). -/
theorem lciStart_engineInv (h : s.EngineInv) (idle : s.lci.fsm = .idle) (st cnt : Nat) (cb : CallbackId) :
    (s.lciStart st cnt cb).EngineInv := by
  have none : s.pending.count .lciWordDone = 0 :=
    List.count_eq_zero.mpr fun owed => by simpa [idle] using h.lciOwed owed
  refine h.of_lci (by simp) (by simp) (by simp) (by simp [State.lciStart]) (by simp [State.lciStart]) ?_ ?_ ?_
  · have one : (s.lciStart st cnt cb).pending.count .lciWordDone = 1 := by simp [State.lciStart, none]
    rw [one]
    exact .of_writeWait (by simp [State.lciStart]) (by simp [State.lciStart])
  · intro cb'
    simp [State.lciStart, h.no_lciFail (by simp [idle])]
  · simp [State.lciStart, idle]

theorem lcprogAfter_engineInv (h : s.EngineInv) (st cnt : Nat) (cb : CallbackId) :
    (lcprogAfter st cnt cb s).EngineInv := by
  cases hf : s.lci.fsm <;> simp only [lcprogAfter, hf]
  case error =>
    obtain ⟨-, l, -⟩ := s.engineInv_iff.mp h
    exact h.of_lci rfl rfl rfl (by simp) (by simp) (by simpa using l) (fun _ _ => hf) Iff.rfl
  case idle => exact (lciStart_engineInv h hf st cnt cb).of_same rfl rfl rfl rfl rfl rfl rfl
  all_goals exact h.of_same rfl rfl rfl rfl rfl rfl rfl

/-- The LCI after a word completion fired: still failed, at rest with its callback released, or waiting for the next
word (spec/43_lci.md R245). -/
theorem lciWordDone_cases (s : State) :
    (s.lci.fsm = .error ∧ (lciWordDone s).lci.fsm = .error ∧ (lciWordDone s).lci.cb = none ∧
      (lciWordDone s).pending = s.pending.erase .lciWordDone) ∨
    (s.lci.fsm ≠ .error ∧ (lciWordDone s).lci.fsm = .idle ∧ (lciWordDone s).lci.cb = none ∧
      (lciWordDone s).pending = s.pending.erase .lciWordDone) ∨
    (s.lci.fsm ≠ .error ∧ (lciWordDone s).lci.fsm = .writeWait ∧ (lciWordDone s).lci.cb = s.lci.cb ∧
      (lciWordDone s).pending = s.pending.erase .lciWordDone ++ [.lciWordDone]) := by
  unfold lciWordDone
  dsimp only
  split
  · rename_i failed
    exact .inl ⟨failed, by simpa [State.persistLci_lci] using failed, by simp, by simp⟩
  · rename_i working
    split
    · exact .inr (.inr ⟨working, by simp⟩)
    · exact .inr (.inl ⟨working, by simp⟩)

theorem lciWordDone_engineInv (h : s.EngineInv) (fired : .lciWordDone ∈ s.pending) : (lciWordDone s).EngineInv := by
  have one : s.pending.count .lciWordDone = 1 := by
    have := h.lciOnce
    have := List.count_pos_iff.mpr fired
    omega
  have gone : (s.pending.erase .lciWordDone).count .lciWordDone = 0 := by rw [List.count_erase_self, one]
  have others : ∀ e, e ≠ .lciWordDone → (s.pending.erase .lciWordDone).count e = s.pending.count e :=
    fun e he => List.count_erase_of_ne he
  have stuck : s.lci.fsm ≠ .reset := by
    rcases h.lciOwed fired with waiting | failed <;> simp [*]
  rcases lciWordDone_cases s with ⟨failed, fsm, cb, events⟩ | ⟨working, fsm, cb, events⟩ |
    ⟨working, fsm, cb, events⟩
  · refine h.of_lci (by simp) (by simp) (by simp) (by simp [events, others]) (by simp [events, others]) ?_
      (fun _ _ => fsm) (by simp [fsm, failed])
    rw [events, gone]
    exact .of_error (by simp) fsm (by simp [cb])
  · refine h.of_lci (by simp) (by simp) (by simp) (by simp [events, others]) (by simp [events, others]) ?_
      (fun cb' => by simp [events, others, h.no_lciFail working]) (by simp [fsm, stuck])
    rw [events, gone]
    exact .of_idle fsm cb
  · refine h.of_lci (by simp) (by simp) (by simp) (by simp [events, others]) (by simp [events, others]) ?_
      (fun cb' => by simp [events, others, h.no_lciFail working]) (by simp [fsm, stuck])
    rw [events, List.count_append, gone]
    exact .of_writeWait fsm (by rw [cb]; exact h.lciCallback.mpr fired)

theorem fireLciFail_engineInv (h : s.EngineInv) (cb : CallbackId) (o : Output) :
    ((s.unschedule (.lciFail cb)).emit o).EngineInv := by
  obtain ⟨-, l, fails, -⟩ := s.engineInv_iff.mp h
  have others : ∀ e, e ≠ .lciFail cb → (s.pending.erase (.lciFail cb)).count e = s.pending.count e :=
    fun e he => List.count_erase_of_ne he
  refine h.of_lci rfl rfl rfl (others _ (by simp)) (others _ (by simp)) ?_ (fun cb' left => fails cb' ?_) Iff.rfl
  · rw [State.emit_pending, State.unschedule_pending, others _ (by simp)]
    exact l
  · exact left.trans_le (List.erase_sublist.count_le _)

/-! ### The entropy pool -/

theorem State.refill_pending (s : State) : s.refill.pending = s.pending ++
    if s.pool.words.length < s.cfg.entropyCap ∧ s.pool.requested = false then [.entropyRequest] else [] := by
  unfold State.refill
  split <;> simp

/-- A refill schedules the request it notes in the pool (spec/45_keyderiv.md R280, R283). -/
theorem refill_engineInv (h : s.EngineInv) : s.refill.EngineInv := by
  refine h.of_pool (by simp) (by simp) (by simp) (fun e he => ?_) ?_
  · rw [State.refill_pending]
    split <;> simp [Ne.symm he]
  · rw [State.refill_pending, State.refill_requested, List.count_append, h.entropy]
    by_cases room : s.pool.words.length < s.cfg.entropyCap <;> cases s.pool.requested <;> simp [room]

theorem getKey_engineInv (h : s.EngineInv) (k : Nat) (kt : KeyType) : (getKey k kt s).EngineInv := by
  have taken : (State.takeWords kt.entropyWords (State.takeWords kt.nonceWords s).2).2.EngineInv :=
    h.of_pool (by simp) (by simp) (by simp) (by simp) (by simpa [State.takeWords_eq] using h.entropy)
  exact (refill_engineInv taken).of_same rfl rfl rfl rfl rfl rfl rfl

theorem keyAfter_engineInv (h : s.EngineInv) (k : Nat) : (keyAfter k s).EngineInv := by
  unfold keyAfter
  split
  · exact getKey_engineInv h k _
  · exact h

theorem deliverEntropy_engineInv (h : s.EngineInv) (w : Word) : (deliverEntropy w s).EngineInv := by
  refine refill_engineInv (h.of_pool rfl rfl rfl (fun e he => List.count_erase_of_ne he) ?_)
  have := h.entropy
  cases hr : s.pool.requested <;> simp_all

/-! ### Power-up, escalation and reset: both engines at once -/

/-- Power-up finds both engines in Reset and leaves both Idle (spec/44_powerup.md R260, R268). -/
theorem powerup_engineInv (h : s.EngineInv) (fresh : s.dai.fsm = .reset) : (powerup s).EngineInv := by
  have lciFresh : s.lci.fsm = .reset := h.together.mp fresh
  have free : s.dai.pending = false := by
    by_contra owed
    simpa [fresh, DaiFsm.waits] using h.daiOwed (by simpa using owed)
  have noWord : .lciWordDone ∉ s.pending := fun owed => by simpa [lciFresh] using h.lciOwed owed
  have released : s.lci.cb = none := by
    by_contra held
    exact noWord (h.lciCallback.mp (Option.isSome_iff_ne_none.mpr held))
  rw [State.engineInv_iff, powerup_cfg, powerup_pending, powerup_pool, powerup_dai, powerup_lci, h.daiDone, free,
    List.count_eq_zero.mpr noWord]
  refine ⟨.of_idle _ rfl free, .of_idle rfl released, fun cb => ?_, h.entropy, by simp⟩
  simp [h.no_lciFail (by simp [lciFresh])]

/-- Escalation fails both engines and keeps what they owe (spec/60_exceptions.md R425). -/
theorem escalate_engineInv (h : s.EngineInv) : s.escalate.EngineInv := by
  obtain ⟨d, l, -, entropy, -⟩ := s.engineInv_iff.mp h
  rw [State.engineInv_iff, State.escalate_cfg, State.escalate_pending, State.escalate_pool, State.escalate_dai,
    State.escalate_lci]
  have failed := Dai.Sound.of_error s.cfg (d := { s.dai with fsm := .error }) rfl
  exact ⟨d.counted ▸ failed, .of_error l.once rfl l.callback, fun _ _ => rfl, entropy, by simp⟩

theorem lcSignal_engineInv (h : s.EngineInv) (n : LcSignal) (b : Bool) : (lcSignal n b s).EngineInv := by
  have noted : { s with lcSignals := LcSignals.write n b s.lcSignals }.EngineInv :=
    h.of_same rfl rfl rfl rfl rfl rfl rfl
  cases n
  case debugEn | checkBypEn => exact noted
  case seedReadEn | seedWriteEn =>
    exact noted.of_same (by simp [lcSignal]) (by simp [lcSignal]) (by simp [lcSignal]) (by simp [lcSignal])
      (by simp [lcSignal]) (by simp [lcSignal]) (by simp [lcSignal])
  case escalateEn =>
    unfold lcSignal
    dsimp only
    split
    · exact escalate_engineInv noted
    · exact noted

/-- A reset leaves the components of a new device over the same storage (spec/70_reset_and_hazards.md R450). -/
theorem resetDevice_eq_constructed (s : State) : s.resetDevice =
    { State.constructed s.cfg s.image s.backing with
      inbox := s.inbox, answers := s.answers, draws := s.draws
      outputs := s.outputs ++ if 0 < s.cfg.entropyCap then [.entropyReq] else [] } := by
  by_cases room : 0 < s.cfg.entropyCap <;>
    simp [State.resetDevice, State.cleared, State.refill, State.constructed, resetPool, room]

theorem resetDevice_engineInv (s : State) : s.resetDevice.EngineInv := by
  rw [resetDevice_eq_constructed]
  exact (constructed_engineInv s.cfg s.image s.backing).of_same rfl rfl rfl rfl rfl rfl rfl

/-! ### Every operation, every step -/

/-- The engines and the pool take part in few operations; the others leave them, and what is pending, as they are. -/
theorem after_engineInv (h : s.EngineInv) (i : Instr) (admitted : admits s i = true) : (after s i).EngineInv := by
  cases i <;> simp only [after]
  case daiRd => exact daiGate_engineInv h (daiRead_engineInv h)
  case daiWr => exact daiGate_engineInv h (daiWrite_engineInv h)
  case daiDigest => exact daiGate_engineInv h (daiDigest_engineInv h)
  case wrDaiCmd v => exact daiGate_engineInv h (fun idle => daiCommand_engineInv h idle v)
  case fireDaiDone => exact daiDone_engineInv h (of_decide_eq_true admitted)
  case lcprog => exact lcprogAfter_engineInv h _ _ _
  case fireLciWordDone => exact lciWordDone_engineInv h (of_decide_eq_true admitted)
  case fireLciFail => exact fireLciFail_engineInv h _ _
  case getkey => exact keyAfter_engineInv h _
  case entropy => exact deliverEntropy_engineInv h _
  case pwrup =>
    split
    · exact powerup_engineInv h ‹_›
    · exact h
  case lcsig => exact lcSignal_engineInv h _ _
  case reset => exact resetDevice_engineInv s
  case wrDaiRegwen | wrDaiAddress | wrDaiWdata0 | wrDaiWdata1 | wrReadLock =>
    (repeat' split) <;> exact h.of_same rfl rfl rfl rfl rfl rfl rfl
  case wrd => exact h.of_same (by simp) (by simp) (by simp) (by simp) (by simp) (by simp) (by simp)
  all_goals exact h.of_same rfl rfl rfl rfl rfl rfl rfl

/-- Settles O52: a step waits or runs one operation, and each engine operation keeps the invariant. -/
theorem engineInvariantIsKept : Obligations.EngineInvariantIsKept := by
  intro s t h hstep
  obtain ⟨-, ⟨-, rfl⟩ | ⟨i, rest, -, hexec⟩⟩ := step_next s t hstep
  · exact h
  · obtain ⟨admitted, rfl⟩ := exec_next i _ t hexec
    have kept := after_engineInv (s := { s with inbox := rest }) (h.of_same rfl rfl rfl rfl rfl rfl rfl) i admitted
    exact kept.of_same rfl rfl rfl rfl rfl rfl rfl

end Sys2Proof.Machine
end

section
/-! Which partition caches and which error slots an operation writes (spec/10_state.md R23, R31): the caches are loaded
at power-up alone, and an operation records in the slot of its own engine or partition. -/

namespace Sys2Proof.Machine

/-! ### The caches of the partitions -/

/-- What a partition caches of storage: its runtime digest and its buffer. -/
def Part.cache (q : Part) : DWord × List Byte := (q.digest, q.buffer)

/-- The caches of all partitions. -/
def State.caches (s : State) : List (DWord × List Byte) := s.parts.map Part.cache

theorem State.part_cache (s : State) (p : Nat) : (s.part p).cache = s.caches.getD p absentPart.cache := by
  simp only [State.part, State.caches, List.getD_eq_getElem?_getD, List.getElem?_map]
  cases s.parts[p]? <;> rfl

theorem State.length_caches (s : State) : s.caches.length = s.parts.length := List.length_map _

theorem State.caches_of_parts {s t : State} (h : t.parts = s.parts) : t.caches = s.caches :=
  congrArg (List.map Part.cache) h

theorem State.updPart_caches (s : State) (p : Nat) {f : Part → Part} (h : ∀ q, (f q).cache = q.cache) :
    (s.updPart p f).caches = s.caches := by
  apply List.ext_getElem?
  intro i
  simp only [State.caches, State.updPart_parts, List.getElem?_map, List.getElem?_modify]
  split <;> simp [Function.comp_def, h]

theorem daiDigest_caches (s : State) : (daiDigest s).caches = s.caches := by
  rcases daiDigest_cases s with e | e | ⟨p, -, -, -, e⟩ <;> rw [e]
  · rfl
  · rfl
  · exact (s.daiAccept .digest).updPart_caches p fun _ => rfl

theorem daiCommand_caches (s : State) (v : Word) : (daiCommand v s).caches = s.caches :=
  daiCommand_keeps s State.caches v (State.caches_of_parts (by simp)) (State.caches_of_parts (by simp))
    (daiDigest_caches s)

theorem windowRead_caches (s : State) (a : Nat) : (windowRead a s).caches = s.caches := by
  unfold windowRead
  dsimp only
  split
  · rfl
  · split
    · exact s.updPart_caches _ fun _ => rfl
    · rfl
    · rfl

theorem updateSeedLocks_caches (s : State) : s.updateSeedLocks.caches = s.caches := by
  unfold State.updateSeedLocks
  generalize s.cfg.seedParts = ps
  induction ps generalizing s with
  | nil => rfl
  | cons p ps ih => exact (ih (s.seedLock p)).trans (s.updPart_caches p fun _ => rfl)

theorem escalate_caches (s : State) : s.escalate.caches = s.caches := by
  simp [State.caches, Function.comp_def, Part.cache]

theorem lcSignal_caches (s : State) (n : LcSignal) (b : Bool) : (lcSignal n b s).caches = s.caches := by
  cases n
  case debugEn | checkBypEn => rfl
  case seedReadEn | seedWriteEn => exact updateSeedLocks_caches _
  case escalateEn =>
    unfold lcSignal
    dsimp only
    split
    · exact escalate_caches _
    · rfl

/-- The caches are loaded by power-up and cleared by RESET (spec/44_powerup.md R270). -/
theorem after_caches (s : State) (i : Instr) :
    ((after s i).caches = s.caches ∧ (after s i).lcinfo = s.lcinfo ∧ (after s i).hwcfg = s.hwcfg) ∨
      i = .pwrup ∨ i = .reset := by
  cases i
  case pwrup => exact .inr (.inl rfl)
  case reset => exact .inr (.inr rfl)
  all_goals refine .inl ?_
  case daiRd | daiWr =>
    exact ⟨daiGate_keeps s State.caches _ (State.caches_of_parts (by simp)),
      daiGate_keeps s State.lcinfo _ (by simp), daiGate_keeps s State.hwcfg _ (by simp)⟩
  case daiDigest =>
    exact ⟨daiGate_keeps s State.caches _ (daiDigest_caches s), daiGate_keeps s State.lcinfo _ (by simp),
      daiGate_keeps s State.hwcfg _ (by simp)⟩
  case wrDaiCmd v =>
    exact ⟨daiGate_keeps s State.caches _ (daiCommand_caches s v),
      daiGate_keeps s State.lcinfo _ (daiCommand_keeps s State.lcinfo v (by simp) (by simp) (by simp)),
      daiGate_keeps s State.hwcfg _ (daiCommand_keeps s State.hwcfg v (by simp) (by simp) (by simp))⟩
  case wrd => exact ⟨windowRead_caches s _, windowRead_lcinfo s _, windowRead_hwcfg s _⟩
  case lcsig n b => exact ⟨lcSignal_caches s n b, lcSignal_lcinfo s n b, lcSignal_hwcfg s n b⟩
  case lcprog | getkey | entropy | fireDaiDone | fireLciWordDone =>
    exact ⟨State.caches_of_parts (by simp [after]), by simp [after], by simp [after]⟩
  case wrDaiRegwen | wrDaiAddress | wrDaiWdata0 | wrDaiWdata1 | wrReadLock =>
    simp only [after]
    (repeat' split) <;> exact ⟨rfl, rfl, rfl⟩
  all_goals exact ⟨rfl, rfl, rfl⟩

/-! ### The error slots -/

/-- At most slot `k` was written. -/
def State.WritesSlot (k : Nat) (s t : State) : Prop := t.err = s.err ∨ ∃ c, t.err = s.err.set k c

namespace State.WritesSlot

variable {s t u : State} {k : Nat}

theorem of_eq (h : t.err = s.err) : s.WritesSlot k t := .inl h

theorem trans (h : s.WritesSlot k t) (h' : t.WritesSlot k u) : s.WritesSlot k u := by
  rcases h with h | ⟨c, h⟩ <;> rcases h' with h' | ⟨c', h'⟩
  · exact .inl (h'.trans h)
  · exact .inr ⟨c', by rw [h', h]⟩
  · exact .inr ⟨c, h'.trans h⟩
  · exact .inr ⟨c', by rw [h', h, List.set_set]⟩

theorem length (h : s.WritesSlot k t) : t.err.length = s.err.length := by
  rcases h with h | ⟨c, h⟩ <;> simp [h]

theorem errAt (h : s.WritesSlot k t) {j : Nat} (hj : j ≠ k) : t.errAt j = s.errAt j := by
  rcases h with h | ⟨c, h⟩
  · simp [State.errAt, h]
  · simp [State.errAt, h, List.getD_eq_getElem?_getD, hj.symm]

end State.WritesSlot

theorem record_writesSlot (s : State) (k : Nat) (c : ErrCode) : s.WritesSlot k (s.record k c) := .inr ⟨c, rfl⟩

theorem daiAccept_writesSlot (s : State) (x : DaiFsm) : s.WritesSlot s.cfg.nPart (s.daiAccept x) := .inr ⟨_, rfl⟩

theorem reject_writesSlot (s : State) (x : DaiFsm) (c : ErrCode) :
    s.WritesSlot s.cfg.nPart ((s.daiAccept x).reject c) :=
  (daiAccept_writesSlot s x).trans (.inr ⟨c, rfl⟩)

theorem daiStore_writesSlot (s : State) (r : Image × Bool) (a n : Nat) :
    s.WritesSlot s.cfg.nPart (s.daiStore r a n) := by
  unfold State.WritesSlot
  rw [State.daiStore_err]
  split <;> split
  · exact .inr ⟨_, List.set_set _⟩
  · exact .inr ⟨_, rfl⟩
  · exact .inr ⟨_, rfl⟩
  · exact .inl rfl

theorem daiPublish_writesSlot (s : State) (p : Nat) (v : DWord) (sev : Severity) :
    s.WritesSlot s.cfg.nPart (s.daiPublish p v sev) := by
  unfold State.daiPublish
  dsimp only
  split <;> split
  · exact .inr ⟨_, rfl⟩
  · exact .inr ⟨_, rfl⟩
  · exact .inl rfl
  · exact .inl rfl

theorem daiRead_writesSlot (s : State) : s.WritesSlot s.cfg.nPart (daiRead s) := by
  rcases daiRead_cases s with e | ⟨p, -, -, -, ⟨-, e⟩ | ⟨-, e⟩⟩ <;> rw [e]
  · exact reject_writesSlot s _ _
  · exact (daiAccept_writesSlot s _).trans (.inr ⟨_, rfl⟩)
  · exact (daiAccept_writesSlot s .read).trans (daiPublish_writesSlot _ _ _ _)

theorem daiWrite_writesSlot (s : State) : s.WritesSlot s.cfg.nPart (daiWrite s) := by
  rcases daiWrite_cases s with e | e | ⟨p, -, -, -, e⟩ <;> rw [e]
  · exact reject_writesSlot s _ _
  · exact reject_writesSlot s _ _
  · exact (daiAccept_writesSlot s .write).trans (daiStore_writesSlot _ _ _ _)

theorem daiDigest_writesSlot (s : State) : s.WritesSlot s.cfg.nPart (daiDigest s) := by
  rcases daiDigest_cases s with e | e | ⟨p, -, -, -, e⟩ <;> rw [e]
  · exact reject_writesSlot s _ _
  · exact reject_writesSlot s _ _
  · exact daiAccept_writesSlot s .digest

theorem daiCommand_writesSlot (s : State) (v : Word) : s.WritesSlot s.cfg.nPart (daiCommand v s) := by
  unfold daiCommand
  split
  · exact daiRead_writesSlot s
  split
  · exact daiWrite_writesSlot s
  split
  · exact daiDigest_writesSlot s
  · exact .inl rfl

theorem daiGate_writesSlot (s : State) {f : State → State} {k : Nat} (h : s.WritesSlot k (f s)) :
    s.WritesSlot k (daiGate f s) := by
  unfold daiGate
  split
  · exact h
  · exact .inl rfl

theorem commitDigest_writesSlot (s : State) : s.WritesSlot s.cfg.nPart s.commitDigest := by
  unfold State.commitDigest
  split
  · exact .inl rfl
  · exact daiStore_writesSlot s _ _ _

theorem daiDone_writesSlot (s : State) : s.WritesSlot s.cfg.nPart (daiDone s) := by
  unfold daiDone
  dsimp only
  split
  · exact .inl rfl
  · exact commitDigest_writesSlot ((s.unschedule .daiDone).mapDai fun d => { d with pending := false })
  · exact .inl rfl

theorem lciFinish_writesSlot (s : State) : s.WritesSlot s.cfg.lcPart s.lciFinish := by
  unfold State.lciFinish
  dsimp only
  split
  · exact .inl (by simp)
  · exact .inr ⟨s.persistLci.lci.err, by simp [Config.lcSlot]⟩

theorem lciWordDone_writesSlot (s : State) : s.WritesSlot s.cfg.lcPart (lciWordDone s) := by
  unfold lciWordDone
  dsimp only
  split
  · exact .inl (by simp)
  · split
    · exact .inl (by simp)
    · exact lciFinish_writesSlot ((s.unschedule .lciWordDone).mapLci fun l => { l with cursor := l.cursor + 1 })

theorem lcprogAfter_writesSlot (s : State) (st cnt : Nat) (cb : CallbackId) :
    s.WritesSlot s.cfg.lcPart (lcprogAfter st cnt cb s) := by
  cases hf : s.lci.fsm <;> simp only [lcprogAfter, hf]
  case idle => exact .inr ⟨.noError, by simp [State.lciStart, Config.lcSlot]⟩
  all_goals exact .inl rfl

theorem windowTarget_partitionOf (s : State) {a p : Nat} (h : s.windowTarget a = some p) :
    s.cfg.partitionOf a = some p := by
  unfold State.windowTarget at h
  split at h
  · cases h
  · (repeat' split at h) <;> simp_all

/-- The slot of a window read is that of the partition it reads, and a partition of the table. -/
theorem windowRead_writesSlot (s : State) (a : Nat) : ∃ p ≤ s.cfg.nPart, s.WritesSlot p (windowRead a s) := by
  unfold windowRead
  dsimp only
  split
  · exact ⟨0, Nat.zero_le _, .inl rfl⟩
  · rename_i p target
    refine ⟨p, ?_, ?_⟩
    · exact (partitionOf_some _ _ _ (windowTarget_partitionOf s target)).1.le
    · split
      · exact .inr ⟨_, rfl⟩
      · exact .inr ⟨_, rfl⟩
      · exact .inl rfl

theorem lcSignal_err (s : State) {n : LcSignal} {b : Bool} (h : ¬ (n = .escalateEn ∧ b = true)) :
    (lcSignal n b s).err = s.err := by
  cases n
  case debugEn | checkBypEn => rfl
  case seedReadEn | seedWriteEn => simp [lcSignal]
  case escalateEn =>
    cases b
    · rfl
    · simp at h

theorem escalate_err_length (s : State) : s.escalate.err.length = s.err.length := State.recordAll_length _ _ _

theorem lcSignal_err_length (s : State) (n : LcSignal) (b : Bool) : (lcSignal n b s).err.length = s.err.length := by
  by_cases h : n = .escalateEn ∧ b = true
  · obtain ⟨rfl, rfl⟩ := h
    unfold lcSignal
    dsimp only
    split
    · exact escalate_err_length _
    · rfl
  · rw [lcSignal_err s h]

/-- Power-up, escalation and RESET apart, an operation writes one slot: that of a partition or of the DAI. -/
theorem after_writesSlot (s : State) (htable : s.cfg.partTableOk = true) (i : Instr) :
    (∃ k ≤ s.cfg.nPart, s.WritesSlot k (after s i)) ∨ i = .pwrup ∨ (∃ n b, i = .lcsig n b) ∨ i = .reset := by
  have lcSlot : s.cfg.lcPart ≤ s.cfg.nPart := (lcPart_lt s.cfg htable).le
  have unchanged : ∀ {t : State}, t.err = s.err → ∃ k ≤ s.cfg.nPart, s.WritesSlot k t :=
    fun h => ⟨0, Nat.zero_le _, .of_eq h⟩
  cases i
  case pwrup => exact .inr (.inl rfl)
  case lcsig n b => exact .inr (.inr (.inl ⟨n, b, rfl⟩))
  case reset => exact .inr (.inr (.inr rfl))
  all_goals refine .inl ?_
  case daiRd => exact ⟨_, le_refl _, daiGate_writesSlot s (daiRead_writesSlot s)⟩
  case daiWr => exact ⟨_, le_refl _, daiGate_writesSlot s (daiWrite_writesSlot s)⟩
  case daiDigest => exact ⟨_, le_refl _, daiGate_writesSlot s (daiDigest_writesSlot s)⟩
  case wrDaiCmd v => exact ⟨_, le_refl _, daiGate_writesSlot s (daiCommand_writesSlot s v)⟩
  case fireDaiDone => exact ⟨_, le_refl _, daiDone_writesSlot s⟩
  case lcprog => exact ⟨_, lcSlot, lcprogAfter_writesSlot s _ _ _⟩
  case fireLciWordDone => exact ⟨_, lcSlot, lciWordDone_writesSlot s⟩
  case wrd => exact windowRead_writesSlot s _
  case getkey | entropy => exact unchanged (by simp [after])
  case wrDaiRegwen | wrDaiAddress | wrDaiWdata0 | wrDaiWdata1 | wrReadLock =>
    simp only [after]
    (repeat' split) <;> exact unchanged rfl
  all_goals exact unchanged rfl

/-! ### The read enables -/

/-- A read enable is cleared by a write of its register and set by RESET (spec/46_registers.md R316). -/
theorem after_readEn (s : State) (i : Instr) :
    (after s i).readEn = s.readEn ∨ (∃ p v, i = .wrReadLock p v) ∨ i = .reset := by
  cases i
  case wrReadLock p v => exact .inr (.inl ⟨p, v, rfl⟩)
  case reset => exact .inr (.inr rfl)
  all_goals refine .inl ?_
  case daiRd | daiWr | daiDigest => exact daiGate_keeps s State.readEn _ (by simp)
  case wrDaiCmd v =>
    exact daiGate_keeps s State.readEn _ (daiCommand_keeps s State.readEn v (by simp) (by simp) (by simp))
  case wrDaiRegwen | wrDaiAddress | wrDaiWdata0 | wrDaiWdata1 | pwrup =>
    simp only [after]
    split <;> simp
  case wrd | lcsig | lcprog | getkey | entropy | fireDaiDone | fireLciWordDone => simp [after]
  all_goals rfl

/-! ### Power-up, partition by partition -/

/-- A property that the power-up of each partition keeps is kept by the power-up of all. -/
theorem powerupParts_induct {P : State → Prop} (s : State) (h : P s)
    (kept : ∀ u p, p < s.cfg.nPart → P u → P (powerupPartition p u).1) : P (powerupParts s).1 := by
  unfold powerupParts
  suffices ∀ ps : List Nat, (∀ p ∈ ps, p < s.cfg.nPart) → ∀ acc : State × List (List Byte), P acc.1 →
      P (ps.foldl (fun acc p => let r := powerupPartition p acc.1; (r.1, acc.2 ++ [r.2])) acc).1 from
    this _ (fun p hp => List.mem_range.mp hp) (s, []) h
  intro ps
  induction ps with
  | nil => exact fun _ acc hacc => hacc
  | cons p ps ih =>
    intro inTable acc hacc
    exact ih (fun q hq => inTable q (List.mem_cons_of_mem _ hq)) _ (kept _ p (inTable p List.mem_cons_self) hacc)

theorem powerup_lengths (s : State) :
    (powerup s).parts.length = s.parts.length ∧ (powerup s).err.length = s.err.length := by
  obtain ⟨parts, err, -⟩ := powerup_of_parts s
  rw [parts, err]
  refine powerupParts_induct (P := fun t => t.parts.length = s.parts.length ∧ t.err.length = s.err.length) _
    ⟨rfl, rfl⟩ fun u p _ hu => ?_
  obtain ⟨partsKept, errKept, -⟩ := powerupPartition_keeps u p
  exact ⟨partsKept.trans hu.1, errKept.trans hu.2⟩

/-- Power-up records in the slots of partitions alone. -/
theorem powerup_errAt (s : State) {j : Nat} (hj : s.cfg.nPart ≤ j) : (powerup s).errAt j = s.errAt j := by
  obtain ⟨-, err, -⟩ := powerup_of_parts s
  rw [State.errAt, err]
  refine powerupParts_induct (P := fun t => t.errAt j = s.errAt j) _ rfl fun u p hp hu => ?_
  have inTable : p < s.cfg.nPart := hp
  exact (powerupPartition_other u p j (by omega)).2.trans hu

end Sys2Proof.Machine
end

section
/-! The shapes of the components (spec/10_state.md R23, R25 to R27, R31, R32, R34): what keeps each length, power-up,
and every operation and step. -/

namespace Sys2Proof.Machine

/-! ### The life-cycle buffer and the pool -/

theorem lcEncode_length (c : Config) (st cnt : Nat) : (c.lcEncode st cnt).length = c.lcWords := by
  simp [Config.lcEncode]

@[simp] theorem State.lciWriteWord_lci_buf (s : State) : s.lciWriteWord.lci.buf = s.lci.buf := by
  simp [State.lciWriteWord]

theorem lciWordDone_lci_buf (s : State) : (lciWordDone s).lci.buf = s.lci.buf := by
  have finish (u : State) : u.lciFinish.lci.buf = u.lci.buf := by
    unfold State.lciFinish
    dsimp only
    split <;> simp [State.persistLci_lci]
  unfold lciWordDone
  dsimp only
  (repeat' split) <;> simp [finish, State.persistLci_lci]

theorem lcprogAfter_lci_buf_length (s : State) (h : s.lci.buf.length = s.cfg.lcWords) (st cnt : Nat) (cb : CallbackId) :
    (lcprogAfter st cnt cb s).lci.buf.length = s.cfg.lcWords := by
  cases hf : s.lci.fsm <;> simp only [lcprogAfter, hf]
  case idle => simp [State.lciStart, lcEncode_length]
  all_goals exact h

theorem lcSignal_lci_buf (s : State) (n : LcSignal) (b : Bool) : (lcSignal n b s).lci.buf = s.lci.buf := by
  unfold lcSignal
  dsimp only
  (repeat' split) <;> simp

/-- The life-cycle buffer is rewritten whole by LCPROG and kept by the others (spec/10_state.md R25). -/
theorem after_lci_buf_length (s : State) (h : s.lci.buf.length = s.cfg.lcWords) (i : Instr) (hi : i ≠ .reset) :
    (after s i).lci.buf.length = s.cfg.lcWords := by
  have kept : ∀ {t : State}, t.lci = s.lci → t.lci.buf.length = s.cfg.lcWords := fun e => e ▸ h
  cases i
  case reset => exact absurd rfl hi
  case lcprog => exact lcprogAfter_lci_buf_length s h _ _ _
  case fireLciWordDone => exact (congrArg List.length (lciWordDone_lci_buf s)).trans h
  case lcsig n b => exact (congrArg List.length (lcSignal_lci_buf s n b)).trans h
  case pwrup =>
    simp only [after]
    split
    · rw [powerup_lci]
      exact h
    · exact h
  case daiRd | daiWr | daiDigest => exact kept (daiGate_keeps s State.lci _ (by simp))
  case wrDaiCmd v =>
    exact kept (daiGate_keeps s State.lci _ (daiCommand_keeps s State.lci v (by simp) (by simp) (by simp)))
  case wrDaiRegwen | wrDaiAddress | wrDaiWdata0 | wrDaiWdata1 | wrReadLock =>
    simp only [after]
    (repeat' split) <;> exact h
  case wrd | getkey | entropy | fireDaiDone => exact kept (by simp [after])
  all_goals exact h

theorem State.refill_words (s : State) : s.refill.pool.words = s.pool.words := by
  rw [State.refill_requested]

theorem keyAfter_words_length (s : State) (k : Nat) : (keyAfter k s).pool.words.length ≤ s.pool.words.length := by
  unfold keyAfter
  split
  · simp [getKey, State.refill_words, State.takeWords_eq]
  · exact le_refl _

theorem deliverEntropy_words_length (s : State) (h : s.pool.words.length ≤ s.cfg.entropyCap) (w : Word) :
    (deliverEntropy w s).pool.words.length ≤ s.cfg.entropyCap := by
  rw [deliverEntropy, State.refill_words]
  dsimp only
  split
  · simpa using ‹_›
  · exact h

/-- Keys take words from the pool, and a delivery adds one while there is room (spec/45_keyderiv.md R280, R281). -/
theorem after_words_length (s : State) (h : s.pool.words.length ≤ s.cfg.entropyCap) (i : Instr) (hi : i ≠ .reset) :
    (after s i).pool.words.length ≤ s.cfg.entropyCap := by
  have kept : ∀ {t : State}, t.pool = s.pool → t.pool.words.length ≤ s.cfg.entropyCap := fun e => e ▸ h
  cases i
  case reset => exact absurd rfl hi
  case getkey k => exact (keyAfter_words_length s k).trans h
  case entropy w _ => exact deliverEntropy_words_length s h w
  case daiRd | daiWr | daiDigest => exact kept (daiGate_keeps s State.pool _ (by simp))
  case wrDaiCmd v =>
    exact kept (daiGate_keeps s State.pool _ (daiCommand_keeps s State.pool v (by simp) (by simp) (by simp)))
  case wrDaiRegwen | wrDaiAddress | wrDaiWdata0 | wrDaiWdata1 | wrReadLock | pwrup =>
    simp only [after]
    (repeat' split) <;> exact kept (by simp)
  case wrd | lcsig | lcprog | fireDaiDone | fireLciWordDone => exact kept (by simp [after])
  all_goals exact h

theorem after_readEn_length (s : State) (i : Instr) (hi : i ≠ .reset) :
    (after s i).readEn.length = s.readEn.length := by
  rcases after_readEn s i with kept | ⟨p, v, rfl⟩ | reset
  · rw [kept]
  · simp only [after]
    (repeat' split) <;> simp
  · exact absurd reset hi

theorem after_err_length (s : State) (htable : s.cfg.partTableOk = true) (i : Instr) (hi : i ≠ .reset) :
    (after s i).err.length = s.err.length := by
  rcases after_writesSlot s htable i with ⟨k, -, writes⟩ | rfl | ⟨n, b, rfl⟩ | reset
  · exact writes.length
  · simp only [after]
    split
    · exact (powerup_lengths s).2
    · rfl
  · exact lcSignal_err_length s n b
  · exact absurd reset hi

/-! ### Power-up -/

theorem granules_length (d : PartDesc) : d.granules.length = d.byteSize / 2 := by
  simp [PartDesc.granules]

theorem correctedBytes_length (s : State) (p : Nat) (even : (s.cfg.desc p).byteSize % 2 = 0) :
    (s.correctedBytes p).length = (s.cfg.desc p).byteSize := by
  simp only [State.correctedBytes, List.length_flatMap, halfBytes, List.length_cons, List.length_nil, List.map_const',
    List.sum_replicate, granules_length, smul_eq_mul]
  omega

/-- A buffered partition's buffer is loaded with the whole partition, or kept where the partition fails its check
(spec/44_powerup.md R261, R262). -/
theorem powerupPartition_buffer_length (s : State) (htable : s.cfg.partTableOk = true) {p : Nat}
    (hp : p < s.cfg.nPart) (hl : s.parts.length = s.cfg.nPart)
    (h : (s.part p).buffer.length = if (s.cfg.desc p).buffered then (s.cfg.desc p).byteSize else 0) :
    ((powerupPartition p s).1.part p).buffer.length =
      if (s.cfg.desc p).buffered then (s.cfg.desc p).byteSize else 0 := by
  obtain ⟨size, -, oneDigest, -⟩ := desc_facts s.cfg htable p hp
  by_cases clean : s.readsClean p
  · obtain ⟨-, loaded, -⟩ := powerupPartition_clean s p (hl ▸ hp) clean oneDigest
    obtain ⟨-, buffer, -⟩ := loadedPart_fields s.cfg s.image p (s.correctedBytes p) (s.part p)
    rw [loaded, buffer]
    split
    · exact correctedBytes_length s p (by omega)
    · rename_i unbuffered
      rwa [if_neg unbuffered] at h
  · rw [(powerupPartition_dirty s p (hl ▸ hp) clean).1]
    exact h

theorem fieldOf_length (s : State) (wcs : List (List Byte)) (q o n : Nat) : (s.fieldOf wcs q o n).length = n := by
  unfold State.fieldOf bytesAt
  split <;> simp

theorem powerup_caches_lengths (s : State) :
    ((powerup s).lcinfo.testUnlock.value.length = s.cfg.tokenBytes ∧
      (powerup s).lcinfo.testExit.value.length = s.cfg.tokenBytes ∧
      (powerup s).lcinfo.rma.value.length = s.cfg.tokenBytes) ∧
    (powerup s).hwcfg.deviceId.length = s.cfg.deviceIdLoc.bytes ∧
      (powerup s).hwcfg.manufState.length = s.cfg.manufStateLoc.bytes ∧
      (powerup s).hwcfg.debugState.length = s.cfg.debugStateLoc.bytes ∧
      (powerup s).hwcfg.sramIfetchEnable.length = s.cfg.sramIfetchLoc.bytes := by
  simp [powerup, State.finishPowerup, State.loadHwCfg, State.loadLcInfo, State.tokenOf, State.hwField, fieldOf_length]

theorem powerup_buffer_length (s : State) (htable : s.cfg.partTableOk = true) (h : s.ShapeInv) {p : Nat}
    (hp : p < s.cfg.nPart) :
    ((powerup s).part p).buffer.length = if (s.cfg.desc p).buffered then (s.cfg.desc p).byteSize else 0 := by
  obtain ⟨parts, -⟩ := powerup_of_parts s
  obtain ⟨u, cfg, -, part, -, length, -, result, -⟩ := powerupParts_one (s.mapDai fun d => { d with fsm := .init }) p hp
  rw [State.mapDai_cfg] at cfg
  have start : u.part p = s.part p := part
  have same : (powerup s).part p = (powerupPartition p u).1.part p := by
    rw [← result, State.part, parts, State.part]
  rw [same, ← cfg]
  apply powerupPartition_buffer_length u <;> rw [cfg]
  · exact htable
  · exact hp
  · exact length.trans h.parts
  · rw [start]
    exact h.buffers p hp

theorem powerup_shapeInv {s : State} (htable : s.cfg.partTableOk = true) (h : s.ShapeInv) : (powerup s).ShapeInv := by
  obtain ⟨parts, err⟩ := powerup_lengths s
  obtain ⟨tokens, hwcfg⟩ := powerup_caches_lengths s
  constructor <;> simp only [powerup_cfg]
  case parts => exact parts.trans h.parts
  case err => exact err.trans h.err
  case readEn => simpa using h.readEn
  case lciBuf =>
    rw [powerup_lci]
    exact h.lciBuf
  case buffers => exact fun p hp => powerup_buffer_length s htable h hp
  case pool => simpa using h.pool
  case tokens => exact tokens
  case hwcfg => exact hwcfg

/-! ### Every operation, every step -/

/-- Where the caches are kept, the shapes are a matter of lengths. -/
theorem State.ShapeInv.of_caches {s t : State} (h : s.ShapeInv) (cfg : t.cfg = s.cfg) (caches : t.caches = s.caches)
    (lcinfo : t.lcinfo = s.lcinfo) (hwcfg : t.hwcfg = s.hwcfg) (err : t.err.length = s.err.length)
    (readEn : t.readEn.length = s.readEn.length) (lciBuf : t.lci.buf.length = s.cfg.lcWords)
    (pool : t.pool.words.length ≤ s.cfg.entropyCap) : t.ShapeInv where
  parts := by rw [← t.length_caches, caches, s.length_caches, cfg, h.parts]
  err := by rw [err, cfg, h.err]
  readEn := by rw [readEn, cfg, h.readEn]
  lciBuf := by rw [lciBuf, cfg]
  buffers p hp := by
    have same : (t.part p).cache = (s.part p).cache := by rw [t.part_cache, s.part_cache, caches]
    rw [cfg] at hp ⊢
    exact (congrArg (fun q => q.2.length) same).trans (h.buffers p hp)
  pool := by rw [cfg]; exact pool
  tokens := by rw [cfg, lcinfo]; exact h.tokens
  hwcfg := by rw [cfg, hwcfg]; exact h.hwcfg

/-- The shapes look neither at the inbox nor at what was emitted. -/
theorem State.ShapeInv.of_same {s t : State} (h : s.ShapeInv) (cfg : t.cfg = s.cfg) (parts : t.parts = s.parts)
    (lcinfo : t.lcinfo = s.lcinfo) (hwcfg : t.hwcfg = s.hwcfg) (err : t.err = s.err) (readEn : t.readEn = s.readEn)
    (lci : t.lci = s.lci) (pool : t.pool.words = s.pool.words) : t.ShapeInv :=
  h.of_caches cfg (State.caches_of_parts parts) lcinfo hwcfg (by rw [err]) (by rw [readEn]) (lci ▸ h.lciBuf)
    (pool ▸ h.pool)

theorem resetDevice_shapeInv (s : State) : s.resetDevice.ShapeInv := by
  rw [resetDevice_eq_constructed]
  exact (constructed_shapeInv s.cfg s.image s.backing).of_same rfl rfl rfl rfl rfl rfl rfl rfl

theorem after_shapeInv {s : State} (htable : s.cfg.partTableOk = true) (h : s.ShapeInv) (i : Instr) :
    (after s i).ShapeInv := by
  by_cases hi : i = .reset
  · subst hi
    exact resetDevice_shapeInv s
  · rcases after_caches s i with ⟨caches, lcinfo, hwcfg⟩ | rfl | reset
    · exact h.of_caches (after_cfg s i) caches lcinfo hwcfg (after_err_length s htable i hi)
        (after_readEn_length s i hi) (after_lci_buf_length s h.lciBuf i hi) (after_words_length s h.pool i hi)
    · simp only [after]
      split
      · exact powerup_shapeInv htable h
      · exact h
    · exact absurd reset hi

/-- Settles O53: power-up and RESET write whole components of the right shape, and every other operation keeps the
lengths. -/
theorem shapeIsKept : Obligations.ShapeIsKept := by
  intro s t h hstep
  obtain ⟨htable, ⟨-, rfl⟩ | ⟨i, rest, -, hexec⟩⟩ := step_next s t hstep
  · exact h
  · obtain ⟨-, rfl⟩ := exec_next i _ t hexec
    have start : { s with inbox := rest }.ShapeInv := h.of_same rfl rfl rfl rfl rfl rfl rfl rfl
    exact (after_shapeInv (s := { s with inbox := rest }) htable start i).of_same rfl rfl rfl rfl rfl rfl rfl rfl

end Sys2Proof.Machine
end

section
/-! Who writes which component (spec/10_state.md R20, R21): answers and outputs, RDATA, the done interrupt and the alert
latches, then the writers of every component together. -/

namespace Sys2Proof.Machine

/-! ### Answers and outputs only grow -/

theorem lcprogAfter_answers (s : State) (st cnt : Nat) (cb : CallbackId) :
    s.answers <+: (lcprogAfter st cnt cb s).answers := by
  unfold lcprogAfter
  split <;> simp

theorem windowRead_answers (s : State) (a : Nat) : s.answers <+: (windowRead a s).answers := by
  unfold windowRead
  dsimp only
  (repeat' split) <;> simp

theorem keyAfter_answers (s : State) (k : Nat) : s.answers <+: (keyAfter k s).answers := by
  unfold keyAfter
  split
  · simp [getKey]
  · exact List.prefix_rfl

theorem after_answers (s : State) (i : Instr) : s.answers <+: (after s i).answers := by
  have kept : ∀ {t : State}, t.answers = s.answers → s.answers <+: t.answers := fun e => e ▸ List.prefix_rfl
  cases i
  case lcprog => exact lcprogAfter_answers s _ _ _
  case wrd => exact windowRead_answers s _
  case getkey => exact keyAfter_answers s _
  case daiRd | daiWr | daiDigest => exact kept (daiGate_keeps s State.answers _ (by simp))
  case wrDaiCmd v =>
    exact kept (daiGate_keeps s State.answers _ (daiCommand_keeps s State.answers v (by simp) (by simp) (by simp)))
  case wrDaiRegwen | wrDaiAddress | wrDaiWdata0 | wrDaiWdata1 | wrReadLock | pwrup =>
    simp only [after]
    (repeat' split) <;> simp
  case lcsig | entropy | fireDaiDone | fireLciWordDone | reset => exact kept (by simp [after])
  case rdIntrState | rdIntrEnable | rdIntrTest | rdAlertTest | rdStatus | rdErrCode | rdDaiRegwen | rdDaiCmd |
      rdDaiAddress | rdDaiWdata0 | rdDaiWdata1 | rdDaiRdata0 | rdDaiRdata1 | rdCheckTriggerRegwen | rdCheckTrigger |
      rdCheckRegwen | rdCheckTimeout | rdReadLock | rdDigest0 | rdDigest1 | wwr | getlc | gethw =>
    exact List.prefix_append _ _
  all_goals exact List.prefix_rfl

theorem outputs_prefix_of_eq {s t : State} (h : t.outputs = s.outputs) : s.outputs <+: t.outputs :=
  h ▸ List.prefix_rfl

theorem lciAck_outputs_prefix (s : State) (ok : Bool) : s.outputs <+: (s.lciAck ok).outputs := by
  unfold State.lciAck
  split <;> simp

theorem lciFinish_outputs (s : State) : s.outputs <+: s.lciFinish.outputs := by
  unfold State.lciFinish
  dsimp only
  refine List.IsPrefix.trans (outputs_prefix_of_eq ?_) (lciAck_outputs_prefix _ _)
  split <;> simp

theorem lciWordDone_outputs (s : State) : s.outputs <+: (lciWordDone s).outputs := by
  unfold lciWordDone
  dsimp only
  split
  · refine List.IsPrefix.trans (outputs_prefix_of_eq ?_) (lciAck_outputs_prefix _ _)
    simp
  · split
    · simp
    · exact lciFinish_outputs ((s.unschedule .lciWordDone).mapLci fun l => { l with cursor := l.cursor + 1 })

theorem refill_outputs (s : State) : s.outputs <+: s.refill.outputs := by
  unfold State.refill
  split <;> simp

theorem keyAfter_outputs (s : State) (k : Nat) : s.outputs <+: (keyAfter k s).outputs := by
  unfold keyAfter
  split
  · refine List.IsPrefix.trans (outputs_prefix_of_eq ?_) (refill_outputs _)
    simp
  · exact List.prefix_rfl

theorem after_outputs (s : State) (i : Instr) : s.outputs <+: (after s i).outputs := by
  cases i
  case fireLciWordDone => exact lciWordDone_outputs s
  case fireLciFail => exact List.prefix_append _ _
  case getkey => exact keyAfter_outputs s _
  case entropy w _ => exact refill_outputs { s with
    pool := { words := if s.pool.words.length < s.cfg.entropyCap then s.pool.words ++ [w] else s.pool.words
              requested := false }
    pending := s.pending.erase .entropyRequest }
  case reset => exact refill_outputs s.cleared
  case pwrup =>
    simp only [after]
    split
    · rw [powerup_outputs]
      exact List.prefix_append _ _
    · exact List.prefix_rfl
  case daiRd | daiWr | daiDigest => exact outputs_prefix_of_eq (daiGate_keeps s State.outputs _ (by simp))
  case wrDaiCmd v =>
    exact outputs_prefix_of_eq
      (daiGate_keeps s State.outputs _ (daiCommand_keeps s State.outputs v (by simp) (by simp) (by simp)))
  case wrDaiRegwen | wrDaiAddress | wrDaiWdata0 | wrDaiWdata1 | wrReadLock =>
    simp only [after]
    (repeat' split) <;> exact List.prefix_rfl
  case wrd | lcsig | lcprog | fireDaiDone => exact outputs_prefix_of_eq (by simp [after])
  all_goals exact List.prefix_rfl

/-! ### Storage and RDATA -/

/-- Storage is programmed by a DAI write, by a digest commit and by the LCI (spec/20_memory.md R83). -/
theorem after_image_writers (s : State) (i : Instr) : (after s i).image = s.image ∨ (∃ x, i = .daiWr x) ∨
    (∃ v, i = .wrDaiCmd v) ∨ i = .fireDaiDone ∨ (∃ st cnt cb, i = .lcprog st cnt cb) ∨ i = .fireLciWordDone := by
  rcases after_image s i with kept | ⟨write, -⟩ | ⟨fired, -⟩ | ⟨program, -⟩
  · exact .inl kept
  · exact .inr (write.imp_right .inl)
  · exact .inr (.inr (.inr (.inl fired)))
  · exact .inr (.inr (.inr (.inr program)))

/-- The two registers of the read data. -/
def State.rdata (s : State) : Word × Word := (s.dai.rdata0, s.dai.rdata1)

theorem State.rdata_of_dai {s t : State} (h : t.dai = s.dai) : t.rdata = s.rdata := by rw [State.rdata, h, State.rdata]

theorem daiWrite_rdata (s : State) : (daiWrite s).rdata = s.rdata := by
  rcases daiWrite_cases s with e | e | ⟨p, -, -, -, e⟩ <;> simp [e, State.rdata]

theorem daiDigest_rdata (s : State) : (daiDigest s).rdata = s.rdata := by
  rcases daiDigest_cases s with e | e | ⟨p, -, -, -, e⟩ <;> simp [e, State.rdata]

theorem daiDone_rdata (s : State) : (daiDone s).rdata = s.rdata := by
  unfold daiDone
  dsimp only
  split <;> simp [State.rdata]

theorem lcSignal_rdata (s : State) (n : LcSignal) (b : Bool) : (lcSignal n b s).rdata = s.rdata := by
  unfold lcSignal
  dsimp only
  (repeat' split) <;> simp [State.rdata]

/-- RDATA takes the value of a read, and is cleared by RESET (spec/46_registers.md R311). -/
theorem after_rdata (s : State) (i : Instr) : (after s i).rdata = s.rdata ∨ (∃ x, i = .daiRd x) ∨
    (∃ v, i = .wrDaiCmd v ∧ v.getLsbD 0 = true) ∨ i = .reset := by
  cases i
  case daiRd x => exact .inr (.inl ⟨x, rfl⟩)
  case reset => exact .inr (.inr (.inr rfl))
  case wrDaiCmd v =>
    by_cases read : v.getLsbD 0 = true
    · exact .inr (.inr (.inl ⟨v, rfl, read⟩))
    · refine .inl (daiGate_keeps s State.rdata _ ?_)
      rw [daiCommand, if_neg read]
      split
      · exact daiWrite_rdata s
      split
      · exact daiDigest_rdata s
      · rfl
  all_goals refine .inl ?_
  case daiWr => exact daiGate_keeps s State.rdata _ (daiWrite_rdata s)
  case daiDigest => exact daiGate_keeps s State.rdata _ (daiDigest_rdata s)
  case fireDaiDone => exact daiDone_rdata s
  case lcsig => exact lcSignal_rdata s _ _
  case pwrup =>
    simp only [after]
    split
    · rw [State.rdata, powerup_dai, State.rdata]
    · rfl
  case wrDaiRegwen | wrDaiAddress | wrDaiWdata0 | wrDaiWdata1 | wrReadLock =>
    simp only [after]
    (repeat' split) <;> rfl
  case wrd | lcprog | getkey | entropy | fireLciWordDone => exact State.rdata_of_dai (by simp [after])
  all_goals rfl

/-! ### The slot of the key derivation -/

/-- Only escalation records in the slot behind the DAI's, and RESET clears it (spec/45_keyderiv.md R285). -/
theorem after_kdiSlot (s : State) (htable : s.cfg.partTableOk = true) (i : Instr) :
    (after s i).errAt (s.cfg.nPart + 1) = s.errAt (s.cfg.nPart + 1) ∨ i = .lcsig .escalateEn true ∨ i = .reset := by
  rcases after_writesSlot s htable i with ⟨k, hk, writes⟩ | rfl | ⟨n, b, rfl⟩ | reset
  · exact .inl (writes.errAt (by omega))
  · refine .inl ?_
    simp only [after]
    split
    · exact powerup_errAt s (Nat.le_succ _)
    · rfl
  · by_cases escalates : n = .escalateEn ∧ b = true
    · obtain ⟨rfl, rfl⟩ := escalates
      exact .inr (.inl rfl)
    · exact .inl (congrArg (fun l => l.getD (s.cfg.nPart + 1) .noError) (lcSignal_err s escalates))
  · exact .inr (.inr reset)

/-! ### The done interrupt and the alert latches -/

/-- From `s` to `t` error codes at most were recorded: the done interrupt is as it was, and no alert latch was cleared
(spec/60_exceptions.md R410). -/
structure State.Records (s t : State) : Prop where
  done : t.intrState.getLsbD 0 = s.intrState.getLsbD 0
  alerts : ∀ k, s.alertLatch.getLsbD k = true → t.alertLatch.getLsbD k = true

namespace State.Records

variable {s t u : State}

theorem of_same (intr : t.intrState = s.intrState) (alerts : t.alertLatch = s.alertLatch) : s.Records t :=
  ⟨by rw [intr], fun _ h => by rwa [alerts]⟩

theorem trans (h : s.Records t) (h' : t.Records u) : s.Records u :=
  ⟨h'.done.trans h.done, fun k hk => h'.alerts k (h.alerts k hk)⟩

/-- The relation looks at the interrupts and the alerts alone. -/
theorem of_start (h : u.Records t) (intr : u.intrState = s.intrState) (alerts : u.alertLatch = s.alertLatch) :
    s.Records t :=
  (of_same intr alerts).trans h

theorem updPart (h : s.Records t) (p : Nat) (f : Part → Part) : s.Records (t.updPart p f) :=
  h.trans (of_same rfl rfl)

end State.Records

theorem interruptOf_done (c : ErrCode) : (interruptOf c).getLsbD 0 = false := by
  cases c <;> rfl

/-- Recording one code. -/
theorem State.Records.of_record {s t : State} (c : ErrCode) (intr : t.intrState = s.intrState ||| interruptOf c)
    (alerts : t.alertLatch = s.alertLatch ||| alertOf c) : s.Records t where
  done := by rw [intr, BitVec.getLsbD_or, interruptOf_done, Bool.or_false]
  alerts k h := by rw [alerts, BitVec.getLsbD_or, h, Bool.true_or]

theorem recordAll_records (s : State) (ks : List Nat) (c : ErrCode) : s.Records (State.recordAll ks c s) := by
  induction ks generalizing s with
  | nil => exact .of_same rfl rfl
  | cons k ks ih => exact (State.Records.of_record c rfl rfl).trans (ih _)

theorem escalate_records (s : State) : s.Records s.escalate :=
  .of_start (recordAll_records _ _ _) rfl rfl

theorem lcSignal_records (s : State) (n : LcSignal) (b : Bool) : s.Records (lcSignal n b s) := by
  cases n
  case debugEn | checkBypEn => exact .of_same rfl rfl
  case seedReadEn | seedWriteEn => exact .of_same (by simp [lcSignal]) (by simp [lcSignal])
  case escalateEn =>
    unfold lcSignal
    dsimp only
    split
    · exact .of_start (escalate_records _) rfl rfl
    · exact .of_same rfl rfl

theorem windowRead_records (s : State) (a : Nat) : s.Records (windowRead a s) := by
  unfold windowRead
  dsimp only
  split
  · exact .of_same rfl rfl
  · split
    · exact .of_record .eccUncorrectable rfl rfl
    · exact .of_record .eccCorrectable rfl rfl
    · exact .of_same rfl rfl

theorem lciFinish_records (s : State) : s.Records s.lciFinish := by
  unfold State.lciFinish
  dsimp only
  split
  · exact .of_same (by simp) (by simp)
  · exact .of_record s.persistLci.lci.err (by simp) (by simp)

theorem lciWordDone_records (s : State) : s.Records (lciWordDone s) := by
  unfold lciWordDone
  dsimp only
  split
  · exact .of_same (by simp) (by simp)
  · split
    · exact .of_same (by simp) (by simp)
    · exact .of_start (lciFinish_records _) rfl rfl

theorem eccGranule_records (p g : Nat) (w : Pass) : w.state.Records (eccGranule p w g).state := by
  unfold eccGranule
  dsimp only
  split
  · split
    · exact .of_same rfl rfl
    · exact .of_record .eccCorrectable rfl rfl
    · exact .of_record .eccUncorrectable rfl rfl
  · exact .of_same rfl rfl

theorem eccPass_records (p : Nat) (s : State) : s.Records (eccPass p s).state := by
  unfold eccPass
  generalize (s.cfg.desc p).granules = gs
  suffices ∀ w : Pass, w.state.Records (gs.foldl (eccGranule p) w).state from this ⟨s, [], true⟩
  induction gs with
  | nil => exact fun w => .of_same rfl rfl
  | cons g gs ih => exact fun w => (eccGranule_records p g w).trans (ih _)

theorem verifyBuffered_records (p : Nat) {s u : State} (h : s.Records u) : s.Records (u.verifyBuffered p) := by
  unfold State.verifyBuffered
  split
  · exact h
  · split
    · exact h.updPart _ _
    · exact h.trans (.of_record .checkFail rfl rfl)

theorem loadPartition_records (p : Nat) (wc : List Byte) (s : State) : s.Records (s.loadPartition p wc) := by
  unfold State.loadPartition
  dsimp only
  refine .updPart ?_ _ _
  repeat' split
  any_goals exact .of_same rfl rfl
  all_goals exact verifyBuffered_records p (.of_same rfl rfl)

theorem powerupPartition_records (p : Nat) (s : State) : s.Records (powerupPartition p s).1 := by
  unfold powerupPartition
  dsimp only
  split
  · exact (eccPass_records p s).trans (loadPartition_records p _ _)
  · exact eccPass_records p s

theorem powerup_records (s : State) : s.Records (powerup s) := by
  have parts : s.Records (powerupParts (s.mapDai fun d => { d with fsm := .init })).1 :=
    powerupParts_induct (P := s.Records) _ (.of_same rfl rfl) fun u p _ hu => hu.trans (powerupPartition_records p u)
  exact parts.trans (.of_same rfl rfl)

/-- The done interrupt is raised at the end of a DAI command and by INTR_TEST (spec/60_exceptions.md R415). -/
theorem after_done (s : State) (i : Instr) (low : s.intrState.getLsbD 0 = false) :
    (after s i).intrState.getLsbD 0 = false ∨ (∃ x, i = .daiRd x) ∨ (∃ x, i = .daiWr x) ∨ (∃ x, i = .daiDigest x) ∨
      (∃ v, i = .wrDaiCmd v) ∨ i = .fireDaiDone ∨ ∃ v, i = .wrIntrTest v ∧ v.getLsbD 0 = true := by
  cases i
  case daiRd x => exact .inr (.inl ⟨x, rfl⟩)
  case daiWr x => exact .inr (.inr (.inl ⟨x, rfl⟩))
  case daiDigest x => exact .inr (.inr (.inr (.inl ⟨x, rfl⟩)))
  case wrDaiCmd v => exact .inr (.inr (.inr (.inr (.inl ⟨v, rfl⟩))))
  case fireDaiDone => exact .inr (.inr (.inr (.inr (.inr (.inl rfl)))))
  case wrIntrTest v =>
    cases bit : v.getLsbD 0
    · exact .inl (by rw [after, BitVec.getLsbD_or, low, BitVec.getLsbD_extractLsb']; simpa using bit)
    · exact .inr (.inr (.inr (.inr (.inr (.inr ⟨v, rfl, bit⟩)))))
  all_goals refine .inl ?_
  case wrIntrState => rw [after, BitVec.getLsbD_and, low, Bool.false_and]
  case wrd => exact (windowRead_records s _).done.trans low
  case lcsig => exact (lcSignal_records s _ _).done.trans low
  case fireLciWordDone => exact (lciWordDone_records s).done.trans low
  case pwrup =>
    simp only [after]
    split
    · exact (powerup_records s).done.trans low
    · exact low
  case reset => simp [after, State.resetDevice, State.cleared]
  case wrDaiRegwen | wrDaiAddress | wrDaiWdata0 | wrDaiWdata1 | wrReadLock =>
    simp only [after]
    (repeat' split) <;> exact low
  case lcprog | getkey | entropy => simpa [after] using low
  all_goals exact low

/-- A fatal read latches an alert; the other ends of a command leave the latches. -/
theorem daiRead_alerts (s : State) (k : Nat) (h : s.alertLatch.getLsbD k = true) :
    (daiRead s).alertLatch.getLsbD k = true := by
  rcases daiRead_cases s with e | ⟨p, -, -, -, ⟨-, e⟩ | ⟨-, e⟩⟩ <;> simp [e, h]

theorem daiWrite_alertLatch (s : State) : (daiWrite s).alertLatch = s.alertLatch := by
  rcases daiWrite_cases s with e | e | ⟨p, -, -, -, e⟩ <;> simp [e, alertOf]

theorem daiDigest_alertLatch (s : State) : (daiDigest s).alertLatch = s.alertLatch := by
  rcases daiDigest_cases s with e | e | ⟨p, -, -, -, e⟩ <;> simp [e, alertOf]

theorem daiCommand_alerts (s : State) (v : Word) (k : Nat) (h : s.alertLatch.getLsbD k = true) :
    (daiCommand v s).alertLatch.getLsbD k = true := by
  unfold daiCommand
  split
  · exact daiRead_alerts s k h
  split
  · rwa [daiWrite_alertLatch]
  split
  · rwa [daiDigest_alertLatch]
  · exact h

/-- An alert latch is cleared by its acknowledgement and by RESET (spec/60_exceptions.md R418). -/
theorem after_alerts (s : State) (i : Instr) {k : Nat} (hk : k < 2) (high : s.alertLatch.getLsbD k = true) :
    (after s i).alertLatch.getLsbD k = true ∨ i = .alertack k ∨ i = .reset := by
  have gated {f : State → State} (h : (f s).alertLatch.getLsbD k = true) :
      (daiGate f s).alertLatch.getLsbD k = true := by
    unfold daiGate
    split
    · exact h
    · exact high
  cases i
  case reset => exact .inr (.inr rfl)
  case alertack j =>
    by_cases own : j = k
    · exact .inr (.inl (by rw [own]))
    · refine .inl ?_
      have other : ((1#2) <<< j).getLsbD k = false := by
        have away : ¬ (j ≤ k ∧ k - j = 0) := by omega
        rw [BitVec.getLsbD_shiftLeft, BitVec.getLsbD_one]
        simpa [hk] using away
      rw [after, BitVec.getLsbD_and, high, BitVec.getLsbD_not, other]
      simpa using hk
  all_goals refine .inl ?_
  case daiRd => exact gated (daiRead_alerts s k high)
  case daiWr => exact gated (by rwa [daiWrite_alertLatch])
  case daiDigest => exact gated (by rwa [daiDigest_alertLatch])
  case wrDaiCmd v => exact gated (daiCommand_alerts s v k high)
  case wrAlertTest => simp [after, high]
  case wrd => exact (windowRead_records s _).alerts k high
  case lcsig => exact (lcSignal_records s _ _).alerts k high
  case fireLciWordDone => exact (lciWordDone_records s).alerts k high
  case pwrup =>
    simp only [after]
    split
    · exact (powerup_records s).alerts k high
    · exact high
  case wrDaiRegwen | wrDaiAddress | wrDaiWdata0 | wrDaiWdata1 | wrReadLock =>
    simp only [after]
    (repeat' split) <;> exact high
  case lcprog | getkey | entropy | fireDaiDone => simpa [after] using high
  all_goals exact high

/-! ### The writers of every component -/

/-- The runtime digests and the buffers are the caches. -/
theorem State.part_of_caches {s t : State} (h : t.caches = s.caches) (p : Nat) :
    (t.part p).digest = (s.part p).digest ∧ (t.part p).buffer = (s.part p).buffer := by
  have same : (t.part p).cache = (s.part p).cache := by rw [t.part_cache, s.part_cache, h]
  exact Prod.mk.inj same

/-- Settles O59: component by component, an operation keeps it or is one of its writers. -/
theorem eachComponentHasItsWriters : Obligations.EachComponentHasItsWriters := by
  intro i s t htable hexec
  obtain ⟨-, rfl⟩ := exec_next i s t hexec
  refine ⟨⟨after_cfg s i, after_inbox s i, after_answers s i, (after_outputs s i).trans (List.prefix_append _ _)⟩,
    (after_image_writers s i).resolve_left, fun changed => ?_, fun changed => ?_,
    (after_kdiSlot s htable i).resolve_left, (after_readEn s i).resolve_left, fun low raised => ?_,
    fun k hk high cleared => ?_⟩
  · refine (after_rdata s i).resolve_left fun kept => ?_
    obtain ⟨rdata0, rdata1⟩ := Prod.mk.inj kept
    exact changed.elim (· rdata0) (· rdata1)
  · refine (after_caches s i).resolve_left fun ⟨caches, lcinfo, hwcfg⟩ => ?_
    rcases changed with changed | changed | ⟨p, changed⟩
    · exact changed lcinfo
    · exact changed hwcfg
    · obtain ⟨digest, buffer⟩ := State.part_of_caches caches p
      exact changed.elim (· digest) (· buffer)
  · exact (after_done s i low).resolve_left (by simpa using raised)
  · exact (after_alerts s i hk high).resolve_left (by simpa using cleared)

end Sys2Proof.Machine
end

section
/-! Where storage and the backing file are touched (spec/20_memory.md R65, R69, R72, R77): the bytes of a DAI write,
of a digest commit and of a life-cycle request, and that each of them lie inside one partition. -/

namespace Sys2Proof.Machine

/-! ### The bytes an operation may program or write back -/

/-- The `n` bytes from `a` are what an operation on partition `p` may program or write back: the granule an accepted DAI
write is for, the digest slot of the partition in service, or words of the life-cycle partition. -/
inductive State.Access (s : State) (p a n : Nat) : Prop
  | daiWrite (target : s.cfg.partitionOf s.dai.address.toNat = some p)
      (accepted : s.writeRefusal p s.dai.address.toNat = none)
      (address : a = s.cfg.daiAddress p s.dai.address.toNat) (width : n = s.cfg.daiWidth p s.dai.address.toNat)
  | digestSlot (waiting : s.dai.fsm = .digestWait) (served : s.dai.part = some p)
      (address : a = (s.cfg.desc p).digestOffset) (width : n = 8)
  | lcWords (part : p = s.cfg.lcPart) (k w : Nat) (address : a = s.cfg.lcAddress k) (width : n = 2 * w)
      (within : k + w ≤ s.cfg.lcWords)

variable {s : State} {p a n : Nat}

/-- The DAI commits a digest for a partition of the table that has one (spec/42_dai.md R215, R222). -/
theorem State.EngineInv.digest_part (h : s.EngineInv) (waiting : s.dai.fsm = .digestWait)
    (served : s.dai.part = some p) : p < s.cfg.nPart ∧ (s.cfg.desc p).hasDigest = true := by
  obtain ⟨q, hq, inTable, -, digest⟩ := h.daiPart (by rw [waiting]; rfl)
  obtain rfl : q = p := Option.some.inj (hq.symm.trans served)
  exact ⟨inTable, by simp [PartDesc.hasDigest, digest waiting]⟩

theorem State.Access.part_lt (access : s.Access p a n) (htable : s.cfg.partTableOk = true) (h : s.EngineInv) :
    p < s.cfg.nPart := by
  cases access with
  | daiWrite target => exact (partitionOf_some _ _ _ target).1
  | digestSlot waiting served => exact (h.digest_part waiting served).1
  | lcWords part => exact part ▸ lcPart_lt s.cfg htable

/-- Every access lies inside the data region (spec/20_memory.md R65). -/
theorem State.Access.below (access : s.Access p a n) (htable : s.cfg.partTableOk = true) (h : s.EngineInv) :
    a + n ≤ s.cfg.otpDataSize := by
  obtain ⟨-, inside, -, -, digest⟩ := desc_facts s.cfg htable p (access.part_lt htable h)
  cases access with
  | daiWrite target _ address width =>
    obtain ⟨inTable, inside⟩ := partitionOf_some _ _ _ target
    rw [address, width]
    exact (daiRange_below s.cfg htable p _ inTable inside).1
  | digestSlot waiting served address width =>
    obtain ⟨-, -, room, slot⟩ := digest (h.digest_part waiting served).2
    omega
  | lcWords part k w address width within =>
    subst part
    simp only [Config.lcWords, Config.lcAddress] at within address
    omega

theorem desc_aligned4 (c : Config) (h4 : aligned4 c) (hp : p < c.nPart) : (c.desc p).byteOffset % 4 = 0 := by
  have hl : p < c.partTable.length := hp
  apply h4
  simp only [Config.desc, List.getD_eq_getElem?_getD, List.getElem?_eq_getElem hl, Option.getD_some]
  exact List.getElem_mem hl

/-- Where partitions are 4-aligned, an access is made of whole granules (spec/20_memory.md R77). -/
theorem State.Access.even (access : s.Access p a n) (htable : s.cfg.partTableOk = true) (h4 : aligned4 s.cfg)
    (h : s.EngineInv) : a % 2 = 0 ∧ n % 2 = 0 := by
  have hp := access.part_lt htable h
  cases access with
  | daiWrite target _ address width =>
    rw [address, width]
    refine ⟨(daiRange_below s.cfg htable p _ hp (partitionOf_some _ _ _ target).2).2, ?_⟩
    unfold Config.daiWidth
    split <;> rfl
  | digestSlot waiting served address width =>
    obtain ⟨-, -, -, -, digest⟩ := desc_facts s.cfg htable p hp
    obtain ⟨offset, size, -, slot⟩ := digest (h.digest_part waiting served).2
    omega
  | lcWords part k w address width =>
    have := desc_aligned4 s.cfg h4 hp
    subst part
    simp only [Config.lcAddress] at address
    omega

/-- Where partitions are 4-aligned, an access lies inside its partition. -/
theorem State.Access.inPart (access : s.Access p a n) (htable : s.cfg.partTableOk = true) (h4 : aligned4 s.cfg)
    (h : s.EngineInv) {k : Nat} (hk : a ≤ k ∧ k < a + n) : inPart s.cfg p k := by
  have hp := access.part_lt htable h
  cases access with
  | daiWrite target _ address width =>
    subst address width
    exact daiRange_inPart s.cfg htable h4 p _ k hp (partitionOf_some _ _ _ target).2 hk
  | digestSlot waiting served address width =>
    subst address width
    exact (digestSlot_inPart s.cfg htable p k hp (h.digest_part waiting served).2 hk).1
  | lcWords part i w address width within =>
    subst part
    simp only [Config.lcWords, Config.lcAddress] at within address
    simp only [Machine.inPart]
    omega

/-! ### What an operation programs -/

/-- Both memories are canonical and list nothing outside their regions. -/
theorem storageWf_iff (c : Config) (data ecc : Memory) : storageWf c data ecc = true ↔
    data.wf = true ∧ ecc.wf = true ∧ data.below c.otpDataSize = true ∧ ecc.below (c.otpDataSize / 2) = true := by
  simp [storageWf, and_assoc]

theorem program16_storageWf (c : Config) (img : Image) (a : Nat) (v : Half) (even : c.otpDataSize % 2 = 0)
    (range : a + 2 ≤ c.otpDataSize) (h : storageWf c img.data img.ecc = true) :
    storageWf c (c.program16 img a v).1.data (c.program16 img a v).1.ecc = true := by
  obtain ⟨hd, he, bd, be⟩ := (storageWf_iff _ _ _).mp h
  obtain ⟨hd', he'⟩ := program16_wf c img a v hd he
  exact (storageWf_iff _ _ _).mpr ⟨hd', he', program16_below c img a _ v range even bd be⟩

theorem program32_storageWf (c : Config) (img : Image) (a : Nat) (v : Word) (even : c.otpDataSize % 2 = 0)
    (range : a + 4 ≤ c.otpDataSize) (h : storageWf c img.data img.ecc = true) :
    storageWf c (c.program32 img a v).1.data (c.program32 img a v).1.ecc = true :=
  program16_storageWf c _ (a + 2) _ even (by omega) (program16_storageWf c img a _ even (by omega) h)

theorem program64_storageWf (c : Config) (img : Image) (a : Nat) (v : DWord) (even : c.otpDataSize % 2 = 0)
    (range : a + 8 ≤ c.otpDataSize) (h : storageWf c img.data img.ecc = true) :
    storageWf c (c.program64 img a v).1.data (c.program64 img a v).1.ecc = true :=
  program32_storageWf c _ (a + 4) _ even (by omega) (program32_storageWf c img a _ even (by omega) h)

theorem daiProgram_storageWf (p a : Nat) (even : s.cfg.otpDataSize % 2 = 0)
    (range : s.cfg.daiAddress p a + s.cfg.daiWidth p a ≤ s.cfg.otpDataSize)
    (h : storageWf s.cfg s.image.data s.image.ecc = true) :
    storageWf s.cfg (s.daiProgram p a).1.data (s.daiProgram p a).1.ecc = true := by
  unfold Config.daiAddress Config.daiWidth at range
  unfold State.daiProgram
  split at range <;> rename_i wide
  · rw [if_pos wide]
    exact program64_storageWf s.cfg s.image _ _ even range h
  · rw [if_neg wide]
    exact program32_storageWf s.cfg s.image _ _ even range h

/-- An operation keeps storage, or programs the bytes of one access: a DAI write's, a digest commit's or one life-cycle
word (spec/20_memory.md R69, R83). -/
theorem after_image_access (hw : 0 < s.cfg.lcWords) (htable : s.cfg.partTableOk = true) (h : s.EngineInv) (i : Instr) :
    (after s i).image = s.image ∨ ∃ p a n, s.Access p a n ∧
      (s.image.data.wf = true → s.image.ecc.wf = true → sameOutside a n s.image (after s i).image) ∧
      (storageWf s.cfg s.image.data s.image.ecc = true →
        storageWf s.cfg (after s i).image.data (after s i).image.ecc = true) := by
  have even : s.cfg.otpDataSize % 2 = 0 := by
    have := otpDataSize_mod s.cfg htable
    omega
  rcases after_image s i with kept | ⟨-, -, p, target, -, accepted, written⟩ | ⟨-, waiting, p, served, committed⟩ |
    ⟨-, -, k, v, word, programmed⟩
  · exact .inl kept
  · have access : s.Access p _ _ := .daiWrite target accepted rfl rfl
    refine .inr ⟨p, _, _, access, ?_⟩
    rw [written]
    exact ⟨fun hd he => (daiProgram_orsBits s p _ hd he).1.2.2.2,
      daiProgram_storageWf p _ even (access.below htable h)⟩
  · have access : s.Access p _ 8 := .digestSlot waiting served rfl rfl
    have aligned : (s.cfg.desc p).digestOffset % 2 = 0 := by
      obtain ⟨inTable, digest⟩ := h.digest_part waiting served
      obtain ⟨-, -, -, -, rules⟩ := desc_facts s.cfg htable p inTable
      obtain ⟨offset, size, -, slot⟩ := rules digest
      omega
    refine .inr ⟨p, _, 8, access, ?_⟩
    rw [committed]
    exact ⟨fun hd he => (program64_orsBits s.cfg s.image _ _ aligned hd he).2.2.2,
      program64_storageWf s.cfg s.image _ _ even (access.below htable h)⟩
  · have access : s.Access s.cfg.lcPart (s.cfg.lcAddress k) 2 := .lcWords rfl k 1 rfl rfl (by omega)
    refine .inr ⟨_, _, 2, access, ?_⟩
    rw [programmed]
    exact ⟨program16_same s.cfg s.image _ v, program16_storageWf s.cfg s.image _ v even (access.below htable h)⟩

end Sys2Proof.Machine
end

section
/-! Storage and its backing copy stay canonical and inside their regions (spec/20_memory.md R65): what a write-back
leaves of the backing file, which operations write back, and the cursor of the request in flight. -/

namespace Sys2Proof.Machine

/-! ### Write-backs -/

/-- Bytes written inside the two regions keep the canonical forms. -/
theorem storageWf_setBytes {c : Config} {data ecc : Memory} (h : storageWf c data ecc = true) {a e : Nat}
    {bs codes : List Byte} (ha : a + bs.length ≤ c.otpDataSize) (he : e + codes.length ≤ c.otpDataSize / 2)
    (enabled : Bool) :
    storageWf c (data.setBytes a bs) (if enabled then ecc.setBytes e codes else ecc) = true := by
  obtain ⟨hd, hc, bd, bc⟩ := (storageWf_iff _ _ _).mp h
  refine (storageWf_iff _ _ _).mpr ⟨data.setBytes_wf hd a bs, ?_, data.setBytes_below _ a bs ha bd, ?_⟩
  · split
    · exact ecc.setBytes_wf hc e codes
    · exact hc
  · split
    · exact ecc.setBytes_below _ e codes he bc
    · exact bc

/-- A write-back inside the data region, whether its draw succeeds or fails, stays inside the regions of the file. -/
theorem persist_storageWf {s : State} (h : ∀ b, s.backing = some b → storageWf s.cfg b.data b.ecc = true) {a n : Nat}
    (range : a + n ≤ s.cfg.otpDataSize) :
    ∀ b, (s.persist a n).backing = some b → storageWf s.cfg b.data b.ecc = true := by
  have codes : a / 2 + n / 2 ≤ s.cfg.otpDataSize / 2 := by omega
  intro b' hb'
  cases hb : s.backing with
  | none => simp [State.persist, hb] at hb'
  | some b =>
    simp only [State.persist, hb, Option.some.injEq] at hb'
    subst hb'
    split <;> exact storageWf_setBytes (h b hb) (by simpa using range) (by simpa using codes) _

/-- From `s` to `t` the backing file is kept, or the bytes of one access are written back to it. -/
def State.WritesAccess (s t : State) : Prop :=
  t.backing = s.backing ∨ ∃ (u : State) (p a n : Nat), s.Access p a n ∧ u.cfg = s.cfg ∧ u.backing = s.backing ∧
    t.backing = (u.persist a n).backing

theorem State.WritesAccess.storageWf {s t : State} (writes : s.WritesAccess t) (htable : s.cfg.partTableOk = true)
    (he : s.EngineInv) (h : ∀ b, s.backing = some b → storageWf s.cfg b.data b.ecc = true) :
    ∀ b, t.backing = some b → storageWf s.cfg b.data b.ecc = true := by
  rcases writes with kept | ⟨u, p, a, n, access, cfg, same, written⟩
  · rwa [kept]
  · rw [written, ← cfg]
    exact persist_storageWf (by rwa [cfg, same]) (cfg ▸ access.below htable he)

variable {s : State}

theorem persistDai_backing (a n : Nat) : (s.persistDai a n).backing = (s.persist a n).backing := by
  unfold State.persistDai
  split <;> rfl

theorem persistLci_backing : s.persistLci.backing = (s.persist (s.cfg.lcAddress 0) s.lciChanged).backing := by
  unfold State.persistLci
  dsimp only
  split <;> rfl

/-- A store of the DAI persists its bytes, whatever it records beside. -/
theorem daiStore_backing (r : Image × Bool) (a n : Nat) :
    ∃ u : State, u.cfg = s.cfg ∧ u.backing = s.backing ∧ (s.daiStore r a n).backing = (u.persist a n).backing := by
  refine ⟨if r.2 then (s.setImage r.1).record (s.setImage r.1).cfg.daiSlot .writeBlank else s.setImage r.1, ?_, ?_,
    persistDai_backing a n⟩
  · split <;> rfl
  · split <;> rfl

theorem daiWrite_writesAccess : s.WritesAccess (daiWrite s) := by
  rcases daiWrite_cases s with e | e | ⟨p, target, -, accepted, e⟩ <;> rw [e]
  · exact .inl rfl
  · exact .inl rfl
  · obtain ⟨u, cfg, same, written⟩ := daiStore_backing (s := s.daiAccept .write) _ _ _
    exact .inr ⟨u, p, _, _, .daiWrite target accepted rfl rfl, cfg, same, written⟩

theorem daiCommand_writesAccess (v : Word) : s.WritesAccess (daiCommand v s) := by
  unfold daiCommand
  split
  · exact .inl (by simp)
  split
  · exact daiWrite_writesAccess
  split
  · exact .inl (by simp)
  · exact .inl rfl

theorem daiGate_writesAccess {f : State → State} (h : s.WritesAccess (f s)) : s.WritesAccess (daiGate f s) := by
  unfold daiGate
  split
  · exact h
  · exact .inl rfl

theorem daiDone_writesAccess : s.WritesAccess (daiDone s) := by
  unfold daiDone
  dsimp only
  split
  · exact .inl rfl
  · rename_i waiting
    unfold State.commitDigest
    split
    · exact .inl rfl
    · rename_i p served
      obtain ⟨u, cfg, same, written⟩ :=
        daiStore_backing (s := (s.unschedule .daiDone).mapDai fun d => { d with pending := false }) _ _ _
      exact .inr ⟨u, p, _, _, .digestSlot waiting served rfl rfl, cfg, same, written⟩
  · exact .inl rfl

/-- The end of a request writes back words of the life-cycle partition (spec/43_lci.md R246). -/
theorem persistLci_writesAccess {t : State} (cfg : t.cfg = s.cfg) (same : t.backing = s.backing) :
    s.WritesAccess t.persistLci := by
  obtain ⟨w, words, within⟩ : ∃ w, t.lciChanged = 2 * w ∧ w ≤ s.cfg.lcWords := by
    unfold State.lciChanged
    rw [cfg]
    split
    · exact ⟨_, rfl, min_le_right _ _⟩
    · exact ⟨0, rfl, Nat.zero_le _⟩
  refine .inr ⟨t, s.cfg.lcPart, s.cfg.lcAddress 0, 2 * w, .lcWords rfl 0 w rfl rfl (by omega), cfg, same, ?_⟩
  rw [persistLci_backing, cfg, words]

theorem lciFinish_backing (t : State) : t.lciFinish.backing = t.persistLci.backing := by
  unfold State.lciFinish
  dsimp only
  split <;> simp

theorem lciWordDone_writesAccess : s.WritesAccess (lciWordDone s) := by
  unfold lciWordDone
  dsimp only
  split
  · have written := persistLci_writesAccess (s := s) (t := s.unschedule .lciWordDone) rfl rfl
    simpa [State.WritesAccess] using written
  · split
    · exact .inl (by simp)
    · rw [State.WritesAccess, lciFinish_backing]
      exact persistLci_writesAccess rfl rfl

/-- A DAI write, a digest commit and the end of a life-cycle request write back the bytes of one access
(spec/20_memory.md R72); the other operations keep the backing file. -/
theorem after_writesAccess (i : Instr) : s.WritesAccess (after s i) := by
  cases i <;> simp only [after]
  case daiWr => exact daiGate_writesAccess daiWrite_writesAccess
  case wrDaiCmd v => exact daiGate_writesAccess (daiCommand_writesAccess v)
  case fireDaiDone => exact daiDone_writesAccess
  case fireLciWordDone => exact lciWordDone_writesAccess
  case daiRd | daiDigest => exact daiGate_writesAccess (.inl (by simp))
  all_goals exact .inl (by (repeat' split) <;> simp)

/-! ### The cursor of the request in flight -/

/-- The callback and the cursor of the request in flight. -/
def Lci.request (l : Lci) : Option CallbackId × Nat := (l.cb, l.cursor)

theorem lcSignal_request (n : LcSignal) (b : Bool) : (lcSignal n b s).lci.request = s.lci.request := by
  unfold lcSignal
  dsimp only
  (repeat' split) <;> simp [Lci.request]

theorem lcprogAfter_request (st cnt : Nat) (cb : CallbackId) :
    (lcprogAfter st cnt cb s).lci.request = s.lci.request ∨ (lcprogAfter st cnt cb s).lci.cursor = 0 := by
  cases hf : s.lci.fsm <;> simp only [lcprogAfter, hf]
  case idle => exact .inr (by simp [State.lciStart, State.lciWriteWord])
  all_goals exact .inl rfl

/-- After a word completion the request has ended, or goes on with a further word of the partition
(spec/43_lci.md R245). -/
theorem lciWordDone_request :
    (lciWordDone s).lci.cb = none ∨ (lciWordDone s).lci.cursor < s.cfg.lcWords := by
  unfold lciWordDone
  dsimp only
  split
  · exact .inl (by simp)
  · split
    · rename_i more
      exact .inr (by simpa [State.lciWriteWord] using more)
    · exact .inl (by simp)

/-- A request in flight is the one before the operation, or its cursor was moved to a word of the partition. -/
theorem after_request (hw : 0 < s.cfg.lcWords) (i : Instr) : (after s i).lci.request = s.lci.request ∨
    (after s i).lci.cb = none ∨ (after s i).lci.cursor < s.cfg.lcWords := by
  have kept : ∀ {t : State}, t.lci = s.lci → t.lci.request = s.lci.request := fun e => by rw [e]
  cases i
  case lcprog st cnt cb =>
    refine (lcprogAfter_request st cnt cb).imp_right fun start => .inr ?_
    rw [after, start]
    exact hw
  case fireLciWordDone => exact .inr lciWordDone_request
  case reset => exact .inr (.inl (by rw [after, resetDevice_eq_constructed]; rfl))
  all_goals refine .inl ?_
  case lcsig n b => exact lcSignal_request n b
  case daiRd | daiWr | daiDigest => exact kept (daiGate_keeps s State.lci _ (by simp))
  case wrDaiCmd v =>
    exact kept (daiGate_keeps s State.lci _ (daiCommand_keeps s State.lci v (by simp) (by simp) (by simp)))
  case pwrup =>
    simp only [after]
    split
    · rw [powerup_lci, Lci.request, Lci.request]
    · rfl
  case wrDaiRegwen | wrDaiAddress | wrDaiWdata0 | wrDaiWdata1 | wrReadLock =>
    simp only [after]
    (repeat' split) <;> rfl
  case wrd | getkey | entropy | fireDaiDone => exact kept (by simp [after])
  all_goals rfl

/-- The callback is held exactly while a word is in flight (spec/43_lci.md R245), so that what moves the cursor of a
held callback moves the cursor of a word in flight. -/
theorem after_cursor (hw : 0 < s.cfg.lcWords) (h : s.EngineInv)
    (cursor : .lciWordDone ∈ s.pending → s.lci.cursor < s.cfg.lcWords) (i : Instr) (admitted : admits s i = true)
    (owed : .lciWordDone ∈ (after s i).pending) : (after s i).lci.cursor < s.cfg.lcWords := by
  have held : (after s i).lci.cb.isSome = true := (after_engineInv h i admitted).lciCallback.mpr owed
  rcases after_request hw i with same | released | moved
  · obtain ⟨cb, position⟩ := Prod.mk.inj same
    rw [position]
    exact cursor (h.lciCallback.mp (cb ▸ held))
  · simp [released] at held
  · exact moved

/-! ### Every operation, every step -/

theorem after_storageInv (hw : 0 < s.cfg.lcWords) (htable : s.cfg.partTableOk = true) (he : s.EngineInv)
    (h : s.StorageInv) (i : Instr) (admitted : admits s i = true) : (after s i).StorageInv := by
  constructor <;> rw [after_cfg]
  case image =>
    rcases after_image_access hw htable he i with kept | ⟨p, a, n, -, -, programmed⟩
    · rw [kept]
      exact h.image
    · exact programmed h.image
  case backing => exact (after_writesAccess i).storageWf htable he h.backing
  case cursor => exact after_cursor hw he h.cursor i admitted

theorem State.StorageInv.of_same {t : State} (h : s.StorageInv) (cfg : t.cfg = s.cfg) (image : t.image = s.image)
    (backing : t.backing = s.backing) (lci : t.lci = s.lci) (pending : t.pending = s.pending) : t.StorageInv := by
  constructor <;> simp only [cfg, image, backing, lci, pending]
  exacts [h.image, h.backing, h.cursor]

/-- Settles O54: a step waits or runs one operation, and what an operation programs or writes back lies inside one
partition. -/
theorem storageStaysCanonical : Obligations.StorageStaysCanonical := by
  intro s t hw he h hstep
  obtain ⟨htable, ⟨-, rfl⟩ | ⟨i, rest, -, hexec⟩⟩ := step_next s t hstep
  · exact h
  · obtain ⟨admitted, rfl⟩ := exec_next i _ t hexec
    have engines : { s with inbox := rest }.EngineInv := he.of_same rfl rfl rfl rfl rfl rfl rfl
    have storage : { s with inbox := rest }.StorageInv := h.of_same rfl rfl rfl rfl rfl
    have kept := after_storageInv (s := { s with inbox := rest }) hw htable engines storage i admitted
    exact kept.of_same rfl rfl rfl rfl rfl

end Sys2Proof.Machine
end

section
/-! A locked partition's storage is never changed (spec/20_memory.md R75): what is programmed lies inside one partition,
and the DAI programs no locked one but for a digest it has accepted (spec/42_dai.md R226). -/

namespace Sys2Proof.Machine

variable {s : State}

/-- What was programmed in whole granules changes no byte and no granule's code elsewhere. -/
theorem sameOutside_granules {a n : Nat} {i j : Image} (h : sameOutside a n i j) (even : a % 2 = 0 ∧ n % 2 = 0)
    {k : Nat} (outside : ¬ (a ≤ k ∧ k < a + n)) :
    j.data.get k = i.data.get k ∧ j.ecc.get (k / 2) = i.ecc.get (k / 2) := by
  obtain ⟨data, ecc, -⟩ := h
  exact ⟨data k outside, ecc (k / 2) (by omega)⟩

theorem unlocked_of_writeRefusal {p a : Nat} (accepted : s.writeRefusal p a = none) : (s.part p).locked = false := by
  by_contra locked
  rw [Bool.not_eq_false] at locked
  unfold State.writeRefusal at accepted
  simp [State.isWritable, locked] at accepted

/-- An access of a locked partition is one of the life-cycle partition, or commits the digest in service. -/
theorem State.Access.of_locked {p a n : Nat} (access : s.Access p a n) (locked : (s.part p).locked = true) :
    p = s.cfg.lcPart ∨ (s.dai.fsm = .digestWait ∧ s.dai.part = some p) := by
  cases access with
  | daiWrite _ accepted => simp [unlocked_of_writeRefusal accepted] at locked
  | digestSlot waiting served => exact .inr ⟨waiting, served⟩
  | lcWords part => exact .inl part

/-- An operation changes no partition, or those bytes and codes of one partition alone that it may access. -/
theorem after_samePart (htable : s.cfg.partTableOk = true) (h4 : aligned4 s.cfg) (hw : 0 < s.cfg.lcWords)
    (hd : s.image.data.wf = true) (hc : s.image.ecc.wf = true) (h : s.EngineInv) (i : Instr) {p : Nat}
    (hp : p < s.cfg.nPart) (free : ∀ a n, ¬ s.Access p a n) : s.samePart p (after s i) := by
  intro k hk
  rcases after_image_access hw htable h i with kept | ⟨q, a, n, access, same, -⟩
  · simp [kept]
  · have hpq : p ≠ q := by
      rintro rfl
      exact free a n access
    have other : ¬ Machine.inPart s.cfg q k :=
      parts_disjoint s.cfg htable p q k hp (access.part_lt htable h) hpq hk
    exact sameOutside_granules (same hd hc) (access.even htable h4 h) fun inside =>
      other (access.inPart htable h4 h inside)

/-- Settles O57: no access is one of a locked partition, and an operation changes nothing of a partition that it does
not access. -/
theorem lockedPartitionsNeverChange : Obligations.LockedPartitionsNeverChange := by
  intro i s t p htable h4 hw hd hc h hp notLc locked notServed hexec
  obtain ⟨-, rfl⟩ := exec_next i s t hexec
  have free : ∀ a n, ¬ s.Access p a n := fun a n access =>
    (access.of_locked locked).elim notLc notServed
  exact after_samePart htable h4 hw hd hc h i hp free

end Sys2Proof.Machine
end

section
/-! The write-back of a DAI write and of a digest commit (spec/20_memory.md R72, spec/42_dai.md R212, R222): each ends
in one store of the bytes it programmed. -/

namespace Sys2Proof.Machine

variable {s : State} {p : Nat}

/-- A write that meets every check is stored (spec/42_dai.md R210). -/
theorem daiWrite_accepted (target : s.cfg.partitionOf s.dai.address.toNat = some p) (notLc : p ≠ s.cfg.lcPart)
    (accepted : s.writeRefusal p s.dai.address.toNat = none) :
    daiWrite s = ((s.daiAccept .write).daiStore (s.daiProgram p s.dai.address.toNat)
      (s.cfg.daiAddress p s.dai.address.toNat) (s.cfg.daiWidth p s.dai.address.toNat)).daiWait p .writeWait := by
  have found : (s.daiAccept .write).daiTarget s.dai.address.toNat = some p := by
    simp [State.daiTarget, target, Config.isLc, notLc]
  have passed : (s.daiAccept .write).writeRefusal p s.dai.address.toNat = none := accepted
  unfold daiWrite
  simp only [found, passed]
  rfl

theorem writeRefusal_none {a : Nat} (noDigest : ¬ ((s.cfg.desc p).hwDigest = true ∧ s.cfg.isDigestAddress p a = true))
    (writable : s.isWritable p = true) (backend : s.cfg.backendWritable = true) : s.writeRefusal p a = none := by
  simp [State.writeRefusal, noDigest, writable, backend]

/-- The completion of a digest command commits the digest of the partition in service (spec/42_dai.md R220, R222). -/
theorem daiDone_commits (waiting : s.dai.fsm = .digestWait) (served : s.dai.part = some p) : daiDone s =
    (((s.unschedule .daiDone).mapDai fun d => { d with pending := false }).daiStore
      (s.cfg.program64 s.image (s.cfg.desc p).digestOffset (s.part p).nextDigest)
      (s.cfg.desc p).digestOffset 8).daiFinish := by
  unfold daiDone State.commitDigest
  simp only [State.mapDai_dai, State.unschedule_dai, waiting, served]
  rfl

/-- The address and the width of a DAI access (spec/20_memory.md R77, R78). -/
theorem daiRange_eq (c : Config) (p a : Nat) : (c.daiAddress p a, c.daiWidth p a) =
    if c.isWideGranule p a then (a / 8 * 8, 8) else (a / 4 * 4, 4) := by
  unfold Config.daiAddress Config.daiWidth alignDown
  split <;> rfl

/-- Settles O31: each of the two operations ends in a store of the DAI, which writes its bytes back. -/
theorem writeBackCopiesWrittenBytes : Obligations.WriteBackCopiesWrittenBytes := by
  intro s t i p a n premise hexec
  obtain ⟨-, rfl⟩ := exec_next i s t hexec
  rcases premise with ⟨⟨x, rfl⟩, enabled, idle, target, notLc, noDigest, writable, backend, range⟩ |
    ⟨rfl, -, waiting, served, rfl, rfl⟩
  · obtain ⟨rfl, rfl⟩ := Prod.mk.inj (range.trans (daiRange_eq s.cfg p s.dai.address.toNat).symm)
    have stored : after s (.daiWr x) = _ := (if_pos (by simp [State.regwen, enabled, idle])).trans
      (daiWrite_accepted target notLc (writeRefusal_none noDigest writable backend))
    rw [stored]
    exact State.daiStore_writesBack s (s.daiAccept .write) _ _ _ _ rfl rfl rfl rfl rfl
  · have stored : after s .fireDaiDone = _ := daiDone_commits waiting served
    rw [stored]
    exact State.daiStore_writesBack s ((s.unschedule .daiDone).mapDai fun d => { d with pending := false }) _ _ _ _
      rfl rfl rfl rfl rfl

end Sys2Proof.Machine
end

section
/-! The backing file (spec/20_memory.md R60, R68, R70 to R72): when a file makes a device and what it loads, and that
the file written for an image loads back. -/

namespace Sys2Proof.Machine

/-! ### Construction -/

/-- There is a device without a file exactly for a valid table (spec/20_memory.md R62, R63, U13). -/
theorem construct_none_iff (c : Config) (s : State) :
    construct c none = .ok s ↔ TableRules c ∧ s = State.constructed c c.initialImage none := by
  rw [← partTableOk_iff, construct]
  cases c.partTableOk <;> simp [eq_comm]

/-- There is a device from a file exactly for a valid table and a file that loads (spec/20_memory.md R71, U14). -/
theorem construct_some_iff (c : Config) (f : List Byte) (s : State) : construct c (some f) = .ok s ↔
    TableRules c ∧ ∃ img, loadImage c f = .ok img ∧ s = State.constructed c img (some (backingOf c f img)) := by
  rw [← partTableOk_iff, construct]
  cases c.partTableOk
  · simp
  · cases loadImage c f <;> simp [eq_comm]

/-! ### The image of a file -/

/-- The image of a file is canonical and lists nothing outside its regions. -/
theorem imageOfFile_storageWf (c : Config) (v l : Nat) (f : List Byte) :
    storageWf c (imageOfFile c v l f).data (imageOfFile c v l f).ecc = true := by
  rw [storageWf_iff, imageOfFile]
  refine ⟨memoryOf_wf _, ?_, memoryOf_below _ _ (List.length_take_le _ _), ?_⟩
  · dsimp only
    split
    · exact memoryOf_wf _
    · rfl
  · dsimp only
    split
    · exact memoryOf_below _ _ (List.length_take_le _ _)
    · rfl

theorem getD_drop_take (bs : List Byte) (o n : Nat) {k : Nat} (hk : k < n) :
    ((bs.drop o).take n).getD k 0#8 = bs.getD (o + k) 0#8 := by
  simp [List.getD_eq_getElem?_getD, hk]

theorem imageOfFile_data (c : Config) (v l : Nat) (f : List Byte) {k : Nat} (hk : k < c.otpDataSize) :
    (imageOfFile c v l f).data.get k = f.getD (8 + l + k) 0#8 :=
  (get_memoryOf _ k).trans (getD_drop_take f _ _ hk)

theorem imageOfFile_ecc (c : Config) (v l : Nat) (f : List Byte) (enabled : fileEcc f = true) {k : Nat}
    (hk : k < c.otpDataSize / 2) :
    (imageOfFile c v l f).ecc.get k = f.getD (8 + l + c.otpDataSize + k) 0#8 := by
  simp only [imageOfFile, enabled, if_true, List.drop_drop]
  exact (get_memoryOf _ k).trans (getD_drop_take f _ _ hk)

/-- The device of a file: its state, its image and its backing file (spec/20_memory.md R70,
spec/47_interfaces.md R349). -/
theorem construct_file {c : Config} {f : List Byte} {s : State} (h : construct c (some f) = .ok s) :
    s = State.constructed c s.image s.backing ∧ s.backingFile = some f ∧
      s.image = imageOfFile c (le32At f 8) (le32At f 4) f := by
  obtain ⟨-, img, loaded, rfl⟩ := (construct_some_iff c f s).mp h
  exact ⟨rfl, backingFile_loaded c f img loaded, ((loadImage_ok c f img).mp loaded).2⟩

/-! ### The file of an image -/

/-- The little-endian word at an offset of a file; the header's 32-bit fields are its values. -/
def wordAt (f : List Byte) (o : Nat) : Word :=
  wordOf (f.getD o 0#8) (f.getD (o + 1) 0#8) (f.getD (o + 2) 0#8) (f.getD (o + 3) 0#8)

theorem le32At_eq_wordAt (f : List Byte) (o : Nat) : le32At f o = (wordAt f o).toNat := rfl

theorem append_byte_assoc {m n : Nat} (x : BitVec m) (y : BitVec n) (b : Byte) : x ++ y ++ b = x ++ (y ++ b) :=
  BitVec.append_assoc.trans (BitVec.cast_eq _ _)

/-- Two words side by side are a double word, the first the low half. -/
theorem le64_eq_wordAt (f : List Byte) (o : Nat) : le64 f o = wordAt f (o + 4) ++ wordAt f o := by
  unfold le64 wordAt wordOf
  rw [← append_byte_assoc, ← append_byte_assoc, ← append_byte_assoc]

theorem dword_halves (v : DWord) : v.extractLsb' 32 32 ++ v.extractLsb' 0 32 = v :=
  (BitVec.extractLsb'_append_extractLsb'_eq_extractLsb' (w := 64) rfl).trans BitVec.extractLsb'_eq_self

theorem qword_quarters (v : QWord) :
    (v.extractLsb' 96 32 ++ v.extractLsb' 64 32) ++ (v.extractLsb' 32 32 ++ v.extractLsb' 0 32) = v := by
  have high : v.extractLsb' 96 32 ++ v.extractLsb' 64 32 = v.extractLsb' 64 64 :=
    BitVec.extractLsb'_append_extractLsb'_eq_extractLsb' rfl
  have low : v.extractLsb' 32 32 ++ v.extractLsb' 0 32 = v.extractLsb' 0 64 :=
    BitVec.extractLsb'_append_extractLsb'_eq_extractLsb' rfl
  rw [high, low]
  exact (BitVec.extractLsb'_append_extractLsb'_eq_extractLsb' (w := 128) rfl).trans BitVec.extractLsb'_eq_self

/-- A version-2 header for an image, and what stands behind it (spec/20_memory.md R70). -/
def headed (c : Config) (img : Image) (body : List Byte) : List Byte :=
  magicBytes ++ (wordBytes 40#32 ++ (wordBytes 2#32 ++
    (halfBytes (if img.eccEnabled then 6#16 else 0#16) ++ (halfBytes 16#16 ++
    (wordBytes (BitVec.ofNat 32 c.otpDataSize) ++ (wordBytes (BitVec.ofNat 32 (eccLength c img)) ++
    (wordBytes (img.digestIv.extractLsb' 0 32) ++ (wordBytes (img.digestIv.extractLsb' 32 32) ++
    (wordBytes (img.digestConst.extractLsb' 0 32) ++ (wordBytes (img.digestConst.extractLsb' 32 32) ++
    (wordBytes (img.digestConst.extractLsb' 64 32) ++ (wordBytes (img.digestConst.extractLsb' 96 32) ++ body))))))))))))

/-- Behind the header of a written file stand the data region, the ECC region and the padding. -/
theorem fileOf_eq_headed (c : Config) (img : Image) : ∃ padding, fileOf c img =
    headed c img (img.data.bytes 0 c.otpDataSize ++ (img.ecc.bytes 0 (eccLength c img) ++ padding)) := by
  dsimp only [fileOf]
  generalize List.replicate _ 0#8 = padding
  exact ⟨padding, by simp only [headed, List.append_assoc]⟩

theorem headed_drop (c : Config) (img : Image) (body : List Byte) : (headed c img body).drop 48 = body := rfl

theorem headed_length (c : Config) (img : Image) (body : List Byte) :
    (headed c img body).length = 48 + body.length := by
  simp only [headed, magicBytes, wordBytes, halfBytes, List.length_append, List.length_cons, List.length_nil]
  omega

/-- The fields of the version-2 header of an image (spec/20_memory.md R70). -/
structure HeaderOf (c : Config) (img : Image) (f : List Byte) : Prop where
  magic : f.take 4 = magicBytes
  hlength : le32At f 4 = 40
  version : le32At f 8 = 2
  eccBits : le16At f 12 = if img.eccEnabled then 6 else 0
  eccGran : le16At f 14 = 16
  dataLen : wordAt f 16 = BitVec.ofNat 32 c.otpDataSize
  eccLen : wordAt f 20 = BitVec.ofNat 32 (eccLength c img)
  iv : le64 f 24 = img.digestIv
  const : le64 f 40 ++ le64 f 32 = img.digestConst

theorem headed_headerOf (c : Config) (img : Image) (body : List Byte) : HeaderOf c img (headed c img body) := by
  have word (w : Word) (o : Nat) (bytes : wordAt (headed c img body) o = wordOf (w.extractLsb' 0 8) (w.extractLsb' 8 8)
      (w.extractLsb' 16 8) (w.extractLsb' 24 8)) : wordAt (headed c img body) o = w := bytes.trans (wordOf_bytes w)
  constructor
  case magic => rfl
  case hlength => exact congrArg BitVec.toNat (word 40#32 4 rfl)
  case version => exact congrArg BitVec.toNat (word 2#32 8 rfl)
  case eccBits => cases h : img.eccEnabled <;> simp [le16At, headed, magicBytes, wordBytes, halfBytes, h]
  case eccGran => simp [le16At, headed, magicBytes, wordBytes, halfBytes]
  case dataLen => exact word _ 16 rfl
  case eccLen => exact word _ 20 rfl
  case iv => rw [le64_eq_wordAt, word _ 24 rfl, word _ 28 rfl, dword_halves]
  case const =>
    rw [le64_eq_wordAt, le64_eq_wordAt, word _ 32 rfl, word _ 36 rfl, word _ 40 rfl, word _ 44 rfl, qword_quarters]

/-! ### Loading a written file -/

theorem get_of_below (m : Memory) {n k : Nat} (h : m.below n = true) (hk : n ≤ k) : m.get k = Memory.blank := by
  induction m with
  | nil => rfl
  | cons e m ih =>
    simp only [Memory.below, List.all_cons, Bool.and_eq_true, decide_eq_true_eq] at h
    obtain ⟨first, rest⟩ := h
    rw [Memory.get, if_neg (by omega)]
    exact ih rest

/-- A memory of a region is what its bytes hold. -/
theorem memoryOf_bytes (m : Memory) {n : Nat} (wf : m.wf = true) (below : m.below n = true) :
    memoryOf (m.bytes 0 n) = m := by
  refine Memory.ext_get _ _ (memoryOf_wf _) wf fun k => ?_
  rw [get_memoryOf]
  by_cases hk : k < n
  · simp [Memory.bytes, List.getD_eq_getElem?_getD, hk]
  · rw [get_of_below m below (by omega), List.getD_eq_default _ _ (by simpa using hk)]
    rfl

/-- The header and the body of a written file. -/
theorem fileOf_parts (c : Config) (img : Image) : HeaderOf c img (fileOf c img) ∧
    ∃ padding, (fileOf c img).drop 48 =
        img.data.bytes 0 c.otpDataSize ++ (img.ecc.bytes 0 (eccLength c img) ++ padding) ∧
      (fileOf c img).length = 48 + (c.otpDataSize + (eccLength c img + padding.length)) := by
  obtain ⟨padding, file⟩ := fileOf_eq_headed c img
  rw [file]
  exact ⟨headed_headerOf c img _, padding, headed_drop c img _, by simp [headed_length]⟩

theorem HeaderOf.lengths {c : Config} {img : Image} {f : List Byte} (header : HeaderOf c img f)
    (h32 : c.otpDataSize < 4294967296) : le32At f 16 = c.otpDataSize ∧ le32At f 20 = eccLength c img := by
  have short : eccLength c img < 4294967296 := by
    unfold eccLength
    split <;> omega
  rw [le32At_eq_wordAt, le32At_eq_wordAt, header.dataLen, header.eccLen]
  exact ⟨Nat.mod_eq_of_lt h32, Nat.mod_eq_of_lt short⟩

/-- A written file meets the rules of a backing file (spec/20_memory.md R68, R71). -/
theorem fileOf_rules (c : Config) (img : Image) (h8 : c.otpDataSize % 8 = 0) (h32 : c.otpDataSize < 4294967296) :
    FileRules c (fileOf c img) := by
  obtain ⟨header, padding, -, length⟩ := fileOf_parts c img
  obtain ⟨dataLen, eccLen⟩ := header.lengths h32
  refine ⟨header.magic, .inr ⟨header.version, header.hlength⟩, ⟨dataLen, by rw [dataLen, h8]⟩, fun bits _ => ?_, ?_⟩
  · have enabled : img.eccEnabled = true := by
      by_contra off
      rw [header.eccBits, if_neg off] at bits
      exact bits rfl
    rw [eccLen, header.eccBits, eccLength, if_pos enabled, if_pos enabled]
    exact ⟨rfl, header.eccGran, rfl⟩
  · rw [header.hlength, dataLen, eccLen, length]
    omega

/-- A written file has ECC exactly where its image has (spec/20_memory.md R68). -/
theorem fileOf_fileEcc (c : Config) (img : Image) (h8 : c.otpDataSize % 8 = 0) (pos : 0 < c.otpDataSize)
    (h32 : c.otpDataSize < 4294967296) : fileEcc (fileOf c img) = img.eccEnabled := by
  obtain ⟨header, -⟩ := fileOf_parts c img
  rw [fileEcc, header.eccBits, (header.lengths h32).2, eccLength]
  cases img.eccEnabled
  · rfl
  · simp only [if_true]
    exact decide_eq_true (by omega)

/-- The image of a written file is the image it was written for. -/
theorem imageOfFile_fileOf (c : Config) (img : Image) (h : storageWf c img.data img.ecc = true)
    (noEcc : img.eccEnabled = false → img.ecc = []) (enabled : fileEcc (fileOf c img) = img.eccEnabled) :
    imageOfFile c 2 40 (fileOf c img) = img := by
  obtain ⟨wfData, wfEcc, belowData, belowEcc⟩ := (storageWf_iff _ _ _).mp h
  obtain ⟨header, padding, body, -⟩ := fileOf_parts c img
  have data : memoryOf (((fileOf c img).drop 48).take c.otpDataSize) = img.data := by
    rw [body, List.take_left' (img.data.length_bytes 0 _), memoryOf_bytes img.data wfData belowData]
  have ecc : (if img.eccEnabled then
      memoryOf ((((fileOf c img).drop 48).drop c.otpDataSize).take (c.otpDataSize / 2)) else []) = img.ecc := by
    split
    · rename_i on
      have length : eccLength c img = c.otpDataSize / 2 := by rw [eccLength, if_pos on]
      rw [body, List.drop_left' (img.data.length_bytes 0 _), length, List.take_left' (img.ecc.length_bytes 0 _),
        memoryOf_bytes img.ecc wfEcc belowEcc]
    · rename_i off
      exact (noEcc (by simpa using off)).symm
  rw [imageOfFile, enabled]
  simp only [Nat.reduceAdd, Nat.reduceEqDiff, if_false, data, ecc, header.iv, header.const]

theorem loadImage_fileOf (c : Config) (img : Image) (h8 : c.otpDataSize % 8 = 0) (pos : 0 < c.otpDataSize)
    (h32 : c.otpDataSize < 4294967296) (h : storageWf c img.data img.ecc = true)
    (noEcc : img.eccEnabled = false → img.ecc = []) : loadImage c (fileOf c img) = .ok img := by
  obtain ⟨header, -⟩ := fileOf_parts c img
  rw [loadImage_ok, header.version, header.hlength]
  exact ⟨fileOf_rules c img h8 h32, (imageOfFile_fileOf c img h noEcc (fileOf_fileEcc c img h8 pos h32)).symm⟩

/-- Settles O60: a file loads exactly when it meets the rules, its image is that of its header and body, and a written
file has the header and the body of its image. -/
theorem fileLoadInvertsFileWrite : Obligations.FileLoadInvertsFileWrite := by
  refine ⟨fun c => ?_, fun c f => ?_, fun c f s made => ?_, loadImage_fileOf⟩
  · simp [construct_none_iff]
  · simp only [construct_some_iff, loadImage_ok]
    constructor
    · rintro ⟨s, table, img, ⟨rules, -⟩, -⟩
      exact ⟨table, rules⟩
    · rintro ⟨table, rules⟩
      exact ⟨_, table, _, ⟨rules, rfl⟩, rfl⟩
  · obtain ⟨state, file, image⟩ := construct_file made
    refine ⟨state, file, ?_⟩
    rw [image]
    refine ⟨rfl, imageOfFile_storageWf c _ _ f, fun k hk => imageOfFile_data c _ _ f hk,
      fun enabled k hk => imageOfFile_ecc c _ _ f enabled hk, fun one => ?_, fun two => ?_⟩
    · simp [imageOfFile, one]
    · simp [imageOfFile, two]

end Sys2Proof.Machine
end

section
/-! The decoder and the admitted set (spec/30_encoding.md R114, R142): what it answers is admitted and a suffix of what it
read, and what lies outside the set is refused, by the decoder or by the operation (spec/60_exceptions.md R400). -/

namespace Sys2Proof

/-- Settles O4: the bus operations by their register's offset, the others by their kind. -/
theorem decodeInvertsEncode : Obligations.DecodeInvertsEncode :=
  fun _ _ rest hmap hi => decode_encode hmap hi rest

/-! ### Register accesses -/

/-- A register reached by its offset exists in a usable map, and is placed: it is listed. -/
theorem Config.mapped_of_regAt {c : Config} (hc : c.regmapOk = true) {r : Reg} {off : Nat} (h : c.regAt off = some r) :
    c.mapped r = true := by
  obtain ⟨e, he, rfl⟩ := Option.map_eq_some_iff.1 h
  have hmem : e ∈ c.regmap := List.mem_of_find?_eq_some he
  have hexists : c.hasReg e.1 = true := by
    simp only [Config.regmapOk, Bool.and_eq_true, List.all_eq_true] at hc
    obtain ⟨⟨hall, -⟩, -⟩ := hc
    obtain ⟨⟨hreg, -⟩, -⟩ := hall e hmem
    exact hreg
  have hplaced : (c.offsetOf e.1).isSome = true := by
    rw [Config.offsetOf, Option.isSome_map, List.find?_isSome]
    exact ⟨e, hmem, decide_eq_true rfl⟩
  rw [Config.mapped, hexists, hplaced, Bool.and_self]

/-- The three checks of an access, and the register it reaches. -/
theorem regAccess_eq_ok {c : Config} {off : Word} {size : Byte} {r : Reg} :
    regAccess c off size = .ok r ↔ size = 4#8 ∧ off.toNat % 4 = 0 ∧ c.regAt off.toNat = some r := by
  unfold regAccess
  split
  · simp_all
  · split
    · simp_all
    · cases c.regAt off.toNat <;> simp_all

theorem regAccess_eq_error {c : Config} {off : Word} {size : Byte}
    (h : size ≠ 4#8 ∨ off.toNat % 4 ≠ 0 ∨ c.regAt off.toNat = none) : ∃ e, regAccess c off size = .error e := by
  cases hr : regAccess c off size with
  | error e => exact ⟨e, rfl⟩
  | ok r =>
    obtain ⟨hsize, haligned, hreg⟩ := regAccess_eq_ok.1 hr
    simp [hsize, haligned, hreg] at h

theorem decodeRead_eq_error {c : Config} {off : Word} {size : Byte} (rest : List Byte)
    (h : size ≠ 4#8 ∨ off.toNat % 4 ≠ 0 ∨ c.regAt off.toNat = none) : ∃ e, decodeRead c off size rest = .error e := by
  obtain ⟨e, he⟩ := regAccess_eq_error h
  exact ⟨e, by rw [decodeRead, he]⟩

theorem decodeWrite_eq_error {c : Config} {off : Word} {size : Byte} (v : Word) (rest : List Byte)
    (h : size ≠ 4#8 ∨ off.toNat % 4 ≠ 0 ∨ c.regAt off.toNat = none) :
    ∃ e, decodeWrite c off size v rest = .error e := by
  obtain ⟨e, he⟩ := regAccess_eq_error h
  exact ⟨e, by rw [decodeWrite, he]⟩

/-! ### Window accesses -/

/-- An address inside the window gives an offset inside it, and one outside gives none (spec/46_registers.md R320). -/
theorem windowOffset_eq_ok {c : Config} {a woff : Word} :
    windowOffset c a = .ok woff ↔ c.swWindowBase ≤ a.toNat ∧ a.toNat < c.swWindowBase + c.swWindowSize ∧
      woff.toNat = a.toNat - c.swWindowBase := by
  have fits : (BitVec.ofNat 32 (a.toNat - c.swWindowBase)).toNat = a.toNat - c.swWindowBase := by
    rw [BitVec.toNat_ofNat, Nat.mod_eq_of_lt (by have := a.isLt; omega)]
  unfold windowOffset
  split
  · simp only [reduceCtorEq, false_iff]
    omega
  · rw [Except.ok.injEq, ← BitVec.toNat_inj, fits]
    omega

theorem windowOffset_eq_error {c : Config} {a : Word}
    (h : a.toNat < c.swWindowBase ∨ c.swWindowBase + c.swWindowSize ≤ a.toNat) : ∃ e, windowOffset c a = .error e := by
  cases hw : windowOffset c a with
  | error e => exact ⟨e, rfl⟩
  | ok woff =>
    obtain ⟨hbase, hsize, -⟩ := windowOffset_eq_ok.1 hw
    omega

theorem inWindow_of_windowOffset {c : Config} {a woff : Word} (h : windowOffset c a = .ok woff) :
    c.inWindow woff = true := by
  obtain ⟨hbase, hsize, hoff⟩ := windowOffset_eq_ok.1 h
  have hword := a.isLt
  simp only [Config.inWindow, Bool.and_eq_true, decide_eq_true_eq]
  omega

/-- A window read the decoder accepts is 32 bits wide, at a 4-aligned offset. -/
theorem decodeWinRead_eq_ok {c : Config} {a : Word} {size : Byte} {rest : List Byte} {x : Instr × List Byte} :
    decodeWinRead c a size rest = .ok x ↔
      ∃ woff, windowOffset c a = .ok woff ∧ size = 4#8 ∧ woff.toNat % 4 = 0 ∧ (.wrd woff, rest) = x := by
  unfold decodeWinRead
  cases windowOffset c a with
  | error e => simp
  | ok woff =>
    dsimp only
    split
    · simp_all
    · split <;> simp_all

theorem decodeWinRead_eq_error {c : Config} {a : Word} {size : Byte} (rest : List Byte)
    (h : (a.toNat < c.swWindowBase ∨ c.swWindowBase + c.swWindowSize ≤ a.toNat) ∨
      (size ≠ 4#8 ∨ (a.toNat - c.swWindowBase) % 4 ≠ 0)) : ∃ e, decodeWinRead c a size rest = .error e := by
  cases hd : decodeWinRead c a size rest with
  | error e => exact ⟨e, rfl⟩
  | ok x =>
    obtain ⟨woff, hw, hsize, haligned, -⟩ := decodeWinRead_eq_ok.1 hd
    obtain ⟨hbase, hbelow, hoff⟩ := windowOffset_eq_ok.1 hw
    rcases h with houtside | hbad | hmisaligned
    · omega
    · exact absurd hsize hbad
    · exact absurd (hoff ▸ haligned) hmisaligned

theorem decodeWinWrite_eq_error {c : Config} {a : Word} (v : Word) (rest : List Byte)
    (h : a.toNat < c.swWindowBase ∨ c.swWindowBase + c.swWindowSize ≤ a.toNat) :
    ∃ e, decodeWinWrite c a v rest = .error e := by
  obtain ⟨e, he⟩ := windowOffset_eq_error h
  exact ⟨e, by rw [decodeWinWrite, he]⟩

/-! ### The bytes behind the code of a kind -/

theorem decodeBody_regRead (c : Config) (off : Word) (size : Byte) (rest : List Byte) :
    decodeBody c .regRead (wordBytes off ++ size :: rest) = decodeRead c off size rest := by
  simp [wordBytes, decodeBody]

theorem decodeBody_regWrite (c : Config) (off v : Word) (size : Byte) (rest : List Byte) :
    decodeBody c .regWrite (wordBytes off ++ size :: (wordBytes v ++ rest)) = decodeWrite c off size v rest := by
  simp [wordBytes, decodeBody]

theorem decodeBody_winRead (c : Config) (a : Word) (size : Byte) (rest : List Byte) :
    decodeBody c .winRead (wordBytes a ++ size :: rest) = decodeWinRead c a size rest := by
  simp [wordBytes, decodeBody]

theorem decodeBody_winWrite (c : Config) (a v : Word) (size : Byte) (rest : List Byte) :
    decodeBody c .winWrite (wordBytes a ++ size :: (wordBytes v ++ rest)) = decodeWinWrite c a v rest := by
  simp [wordBytes, decodeBody]

/-- A fetch from the window is no operation (spec/20_memory.md R82). -/
theorem decodeBody_winFetch (c : Config) (a : Word) (rest : List Byte) :
    decodeBody c .winFetch (wordBytes a ++ rest) = .error .windowFetch := by
  simp [wordBytes, decodeBody]

/-- The signals are numbered 0 to 4 (spec/10_state.md R33). -/
theorem decodeLcsig_eq_error {name : Byte} (level : Byte) (rest : List Byte) (h : 5 ≤ name.toNat) :
    decodeLcsig name level rest = .error .badOperand := by
  have unnamed : decodeSignal name = none := List.getElem?_eq_none h
  rw [decodeLcsig, unnamed]

/-- The programmable states of the default enumeration are 0 to 20 (spec/30_encoding.md R121). -/
theorem lcProgrammable_default {c : Config} (hc : c.lcStates = defaultLcStates) {st : Nat}
    (h : c.lcProgrammable st = true) : st ≤ 20 := by
  simp only [Config.lcProgrammable, hc, Bool.and_eq_true, decide_eq_true_eq] at h
  exact Nat.lt_succ_iff.1 h.2

/-! ### What the decoder answers is admitted -/

theorem daiCommandOf_wf (c : Config) (v : Word) : (daiCommandOf v).wf c = true := by
  unfold daiCommandOf
  split
  · rfl
  · split
    · rfl
    · split <;> rfl

theorem decodeRead_ok {c : Config} (hc : c.regmapOk = true) {off : Word} {size : Byte} {bs rest : List Byte} {i : Instr}
    (h : decodeRead c off size bs = .ok (i, rest)) : i.wf c = true ∧ rest = bs := by
  unfold decodeRead at h
  split at h
  · rename_i r hr
    obtain ⟨-, -, hreg⟩ := regAccess_eq_ok.1 hr
    cases h
    exact ⟨(readOp_wf c r).trans (Config.mapped_of_regAt hc hreg), rfl⟩
  · cases h

theorem decodeWrite_ok {c : Config} (hc : c.regmapOk = true) {off v : Word} {size : Byte} {bs rest : List Byte}
    {i : Instr} (h : decodeWrite c off size v bs = .ok (i, rest)) : i.wf c = true ∧ rest = bs := by
  unfold decodeWrite at h
  split at h
  · rename_i r hr
    obtain ⟨-, -, hreg⟩ := regAccess_eq_ok.1 hr
    cases h
    exact ⟨(writeOp_wf c v r).trans (Config.mapped_of_regAt hc hreg), rfl⟩
  · cases h

theorem decodeWinRead_ok {c : Config} {a : Word} {size : Byte} {bs rest : List Byte} {i : Instr}
    (h : decodeWinRead c a size bs = .ok (i, rest)) : i.wf c = true ∧ rest = bs := by
  obtain ⟨woff, hw, -, haligned, heq⟩ := decodeWinRead_eq_ok.1 h
  cases heq
  exact ⟨by simp [Instr.wf, Instr.operandsOk, haligned, inWindow_of_windowOffset hw], rfl⟩

theorem decodeWinWrite_ok {c : Config} {a v : Word} {bs rest : List Byte} {i : Instr}
    (h : decodeWinWrite c a v bs = .ok (i, rest)) : i.wf c = true ∧ rest = bs := by
  unfold decodeWinWrite at h
  split at h
  · cases h
  · rename_i woff hw
    cases h
    exact ⟨inWindow_of_windowOffset hw, rfl⟩

theorem decodeLcprog_ok {c : Config} {st : Byte} {cnt cb : Word} {bs rest : List Byte} {i : Instr}
    (h : decodeLcprog c st cnt cb bs = .ok (i, rest)) : i.wf c = true ∧ rest = bs := by
  unfold decodeLcprog at h
  split at h
  · rename_i inRange
    obtain ⟨hst, hcnt⟩ := inRange
    cases h
    exact ⟨by simp [Instr.wf, Instr.operandsOk, hst, hcnt, cnt.isLt], rfl⟩
  · cases h

theorem decodeLcsig_ok {c : Config} {name level : Byte} {bs rest : List Byte} {i : Instr}
    (h : decodeLcsig name level bs = .ok (i, rest)) : i.wf c = true ∧ rest = bs := by
  unfold decodeLcsig at h
  split at h
  · cases h
    exact ⟨rfl, rfl⟩
  · cases h

/-- The bytes behind the operands `pre` of a frame are a suffix of its body. -/
theorem suffix_append_of_eq {pre bs rest : List Byte} (h : rest = bs) : rest <:+ pre ++ bs :=
  h ▸ List.suffix_append pre rest

/-- Kind by kind: the operation is admitted, and its operands stand before the rest. -/
theorem decodeBody_ok {c : Config} (hc : c.regmapOk = true) {k : Kind} {bs rest : List Byte} {i : Instr}
    (h : decodeBody c k bs = .ok (i, rest)) : i.wf c = true ∧ rest <:+ bs := by
  unfold decodeBody at h
  split at h
  next b0 b1 b2 b3 tail => -- a DAI command
    cases h
    exact ⟨daiCommandOf_wf c _, List.suffix_append [b0, b1, b2, b3] rest⟩
  next b0 b1 b2 b3 sz tail => -- a register read
    exact (decodeRead_ok hc h).imp_right (suffix_append_of_eq (pre := [b0, b1, b2, b3, sz]))
  next b0 b1 b2 b3 sz v0 v1 v2 v3 tail => -- a register write
    exact (decodeWrite_ok hc h).imp_right (suffix_append_of_eq (pre := [b0, b1, b2, b3, sz, v0, v1, v2, v3]))
  next b0 b1 b2 b3 sz tail => -- a window read
    exact (decodeWinRead_ok h).imp_right (suffix_append_of_eq (pre := [b0, b1, b2, b3, sz]))
  next b0 b1 b2 b3 sz v0 v1 v2 v3 tail => -- a window write
    exact (decodeWinWrite_ok h).imp_right (suffix_append_of_eq (pre := [b0, b1, b2, b3, sz, v0, v1, v2, v3]))
  next => cases h -- a window fetch
  next => -- PWRUP
    cases h
    exact ⟨rfl, List.suffix_refl _⟩
  next st t0 t1 t2 t3 b0 b1 b2 b3 tail => -- LCPROG
    exact (decodeLcprog_ok h).imp_right (suffix_append_of_eq (pre := [st, t0, t1, t2, t3, b0, b1, b2, b3]))
  next name level tail => -- LCSIG
    exact (decodeLcsig_ok h).imp_right (suffix_append_of_eq (pre := [name, level]))
  next => -- GETLC
    cases h
    exact ⟨rfl, List.suffix_refl _⟩
  next => -- GETHW
    cases h
    exact ⟨rfl, List.suffix_refl _⟩
  next key tail => -- GETKEY
    split at h
    · rename_i hkey
      cases h
      exact ⟨by simp [Instr.wf, Instr.operandsOk, hkey, key.isLt], List.suffix_cons key rest⟩
    · cases h
  next b0 b1 b2 b3 f tail => -- ENTROPY
    split at h
    · cases h
      exact ⟨rfl, List.suffix_append [b0, b1, b2, b3, f] rest⟩
    · cases h
  next idx tail => -- ALERTACK
    split at h
    · rename_i hidx
      cases h
      exact ⟨decide_eq_true hidx, List.suffix_cons idx rest⟩
    · cases h
  next => -- FIRE DaiDone
    cases h
    exact ⟨rfl, List.suffix_refl _⟩
  next => -- FIRE LciWordDone
    cases h
    exact ⟨rfl, List.suffix_refl _⟩
  next b0 b1 b2 b3 tail => -- FIRE LciFail
    cases h
    exact ⟨rfl, List.suffix_append [b0, b1, b2, b3] rest⟩
  next => -- RESET
    cases h
    exact ⟨rfl, List.suffix_refl _⟩
  next => cases h -- truncated

/-- Settles O5: the first byte names a kind, and the rest is that kind's. -/
theorem decodedOperationsAreAdmitted : Obligations.DecodedOperationsAreAdmitted := by
  intro c bs i rest hmap h
  cases bs with
  | nil => cases h
  | cons b bs =>
    rw [decode] at h
    split at h
    · obtain ⟨hwf, operands, rfl⟩ := decodeBody_ok hmap h
      exact ⟨hwf, b :: operands, List.cons_ne_nil b operands, rfl⟩
    · cases h

/-- Settles O3: closed facts about nine frames, evaluated with the register map and the window base of EX1. -/
theorem decodeReadsSpecWords : Obligations.DecodeReadsSpecWords := by
  unfold Obligations.DecodeReadsSpecWords
  decide +kernel

end Sys2Proof

namespace Sys2Proof.Machine

/-! ### Frames that are no operation (spec/93_implementation_defined.md U1, U2, U6, U40) -/

/-- A frame of a known kind whose operands do not decode refuses the step. -/
theorem step_refused_of_decodeBody {s : State} (htable : s.cfg.partTableOk = true) {k : Kind} {bs : List Byte}
    (h : ∃ e, decodeBody s.cfg k bs = .error e) :
    ∃ e, step { s with inbox := k.code :: bs } = .refused (.undecodable e) := by
  obtain ⟨e, he⟩ := h
  have hfetch : fetch { s with inbox := k.code :: bs } = .error e := by simp [fetch, he]
  exact ⟨e, by rw [step, if_pos htable, hfetch]⟩

theorem regAccess_frames_refused (s : State) (off v : Word) (size : Byte) (rest : List Byte)
    (htable : s.cfg.partTableOk = true)
    (h : size ≠ 4#8 ∨ off.toNat % 4 ≠ 0 ∨ s.cfg.regAt off.toNat = none) :
    (∃ e, step { s with inbox := 1#8 :: (wordBytes off ++ size :: rest) } = .refused (.undecodable e)) ∧
      ∃ e, step { s with inbox := 2#8 :: (wordBytes off ++ size :: (wordBytes v ++ rest)) } =
        .refused (.undecodable e) := by
  refine ⟨step_refused_of_decodeBody htable (k := .regRead) ?_, step_refused_of_decodeBody htable (k := .regWrite) ?_⟩
  · rw [decodeBody_regRead]
    exact decodeRead_eq_error rest h
  · rw [decodeBody_regWrite]
    exact decodeWrite_eq_error v rest h

theorem winRead_frame_refused (s : State) (a : Word) (size : Byte) (rest : List Byte)
    (htable : s.cfg.partTableOk = true)
    (h : (a.toNat < s.cfg.swWindowBase ∨ s.cfg.swWindowBase + s.cfg.swWindowSize ≤ a.toNat) ∨
      (size ≠ 4#8 ∨ (a.toNat - s.cfg.swWindowBase) % 4 ≠ 0)) :
    ∃ e, step { s with inbox := 3#8 :: (wordBytes a ++ size :: rest) } = .refused (.undecodable e) := by
  refine step_refused_of_decodeBody htable (k := .winRead) ?_
  rw [decodeBody_winRead]
  exact decodeWinRead_eq_error rest h

theorem winWrite_frame_refused (s : State) (a v : Word) (size : Byte) (rest : List Byte)
    (htable : s.cfg.partTableOk = true)
    (h : a.toNat < s.cfg.swWindowBase ∨ s.cfg.swWindowBase + s.cfg.swWindowSize ≤ a.toNat) :
    ∃ e, step { s with inbox := 4#8 :: (wordBytes a ++ size :: (wordBytes v ++ rest)) } =
      .refused (.undecodable e) := by
  refine step_refused_of_decodeBody htable (k := .winWrite) ?_
  rw [decodeBody_winWrite]
  exact decodeWinWrite_eq_error v rest h

theorem winFetch_frame_refused (s : State) (a : Word) (rest : List Byte) (htable : s.cfg.partTableOk = true) :
    ∃ e, step { s with inbox := 5#8 :: (wordBytes a ++ rest) } = .refused (.undecodable e) :=
  step_refused_of_decodeBody htable (k := .winFetch) ⟨_, decodeBody_winFetch s.cfg a rest⟩

theorem lcsig_frame_refused (s : State) (name level : Byte) (rest : List Byte) (htable : s.cfg.partTableOk = true)
    (h : 5 ≤ name.toNat) :
    ∃ e, step { s with inbox := 8#8 :: name :: level :: rest } = .refused (.undecodable e) :=
  step_refused_of_decodeBody htable (k := .lcsig) ⟨_, decodeLcsig_eq_error level rest h⟩

theorem step_refused_of_badTable (s : State) (h : ¬ TableRules s.cfg) : step s = .refused .invalidConfig :=
  if_neg (mt (partTableOk_iff s.cfg).1 h)

/-! ### Operations that are refused (spec/93_implementation_defined.md U2, U6, U9, U11, U12; log 7) -/

theorem exec_lcprog_refused (s : State) (st cnt : Nat) (cb : CallbackId)
    (h : s.cfg.lcProgrammable st = false ∨ (s.cfg.lcStates = defaultLcStates ∧ 20 < st) ∨ s.cfg.lcCntMax < cnt) :
    exec (.lcprog st cnt cb) s = .refused .operandOutOfRange := by
  refine if_neg ?_
  rintro ⟨hst, hcnt⟩
  rcases h with hbad | ⟨hdefault, hlarge⟩ | hmany
  · exact Bool.false_ne_true (hbad.symm.trans hst)
  · exact Nat.not_lt.2 (lcProgrammable_default hdefault hst) hlarge
  · exact Nat.not_lt.2 hcnt hmany

theorem exec_getkey_refused (s : State) (k : Nat) (h : s.cfg.keyTypes.length ≤ k) :
    exec (.getkey k) s = .refused .operandOutOfRange := by
  rw [exec, execGetkey, List.getElem?_eq_none h]

theorem exec_readOp (r : Reg) (s : State) : exec r.readOp s = readReg r s := by
  cases r <;> rfl

/-- Writes of the registers every configuration has cannot be refused; the others ask for their register. -/
theorem exec_writeOp_refused {s : State} {r : Reg} (v : Word) (h : s.cfg.hasReg r = false) :
    exec (r.writeOp v) s = .refused .noSuchRegister := by
  cases r with
  | errCode k | readLock p | digest0 p | digest1 p => exact if_neg (Bool.eq_false_iff.1 h)
  | _ => exact Bool.noConfusion h

theorem exec_reg_refused (s : State) (r : Reg) (v : Word) (h : s.cfg.hasReg r = false) :
    exec r.readOp s = .refused .noSuchRegister ∧ exec (r.writeOp v) s = .refused .noSuchRegister :=
  ⟨(exec_readOp r s).trans (if_neg (Bool.eq_false_iff.1 h)), exec_writeOp_refused v h⟩

/-- Settles O6, clause by clause: the frames, the table, then the operands, registers and events. -/
theorem operationsOutsideTheSetAreRefused : Obligations.OperationsOutsideTheSetAreRefused :=
  ⟨regAccess_frames_refused,
    fun s a v size rest htable h =>
      ⟨winRead_frame_refused s a size rest htable (.inl h), winWrite_frame_refused s a v size rest htable h⟩,
    fun s a size rest htable _ _ h => winRead_frame_refused s a size rest htable (.inr h),
    winFetch_frame_refused, lcsig_frame_refused, exec_lcprog_refused, step_refused_of_badTable, exec_getkey_refused,
    fun _ _ h => if_neg (Nat.not_lt.2 h),
    fun _ _ h => if_neg fun ⟨haligned, hbelow⟩ => h.elim (absurd haligned) (Nat.not_le.2 hbelow),
    exec_reg_refused,
    fun _ h => if_neg h, fun _ h => if_neg h, fun _ _ h => if_neg h⟩

end Sys2Proof.Machine
end

section
/-! The (22,16) code (spec/40_ecc.md R150 to R158). The syndrome is linear, for masks of every configuration; an encoded word
has syndrome 0 where every mask lies below its own check bit; and the columns of the default masks (PRESUMED by the spec,
log 11) are distinct and odd, so one flip is named by its column and two flips leave a nonzero even syndrome. -/

namespace Sys2Proof

/-! ### Parity is linear -/

theorem foldl_xor_xor {α : Type} (f g : α → Bool) (l : List α) (a b : Bool) :
    l.foldl (fun acc i => Bool.xor acc (Bool.xor (f i) (g i))) (Bool.xor a b) =
      Bool.xor (l.foldl (fun acc i => Bool.xor acc (f i)) a) (l.foldl (fun acc i => Bool.xor acc (g i)) b) := by
  induction l generalizing a b with
  | nil => rfl
  | cons i l ih =>
    rw [List.foldl_cons, List.foldl_cons, List.foldl_cons, ← ih]
    have hswap : Bool.xor (Bool.xor a b) (Bool.xor (f i) (g i)) = Bool.xor (Bool.xor a (f i)) (Bool.xor b (g i)) := by
      rw [Bool.xor_assoc, Bool.xor_assoc, Bool.xor_left_comm b]
    rw [hswap]

theorem parity_xor (v w : BitVec 22) : parity (v ^^^ w) = Bool.xor (parity v) (parity w) := by
  have h := foldl_xor_xor v.getLsbD w.getLsbD (List.range 22) false false
  simpa only [parity, BitVec.getLsbD_xor, Bool.xor_false] using h

theorem xor_and_distrib (v w m : BitVec 22) : (v ^^^ w) &&& m = (v &&& m) ^^^ (w &&& m) := by
  apply BitVec.eq_of_getLsbD_eq
  intro i _
  simp only [BitVec.getLsbD_and, BitVec.getLsbD_xor, Bool.and_xor_distrib_right]

theorem parity_bit : ∀ i, i < 22 → parity ((1#22) <<< i) = true := by decide

/-! ### The syndrome, bit by bit -/

theorem getLsbD_bit {n : Nat} (k i : Nat) : ((1#n) <<< k).getLsbD i = (decide (k < n) && decide (k = i)) := by
  rw [← BitVec.twoPow_eq, BitVec.getLsbD_twoPow]

/-- One step of the syndrome: the bit of mask `m` is set where its parity over `w` is odd. -/
def syndromeStep (w : BitVec 22) (s : BitVec 6) (m : BitVec 22 × Nat) : BitVec 6 :=
  if parity (w &&& decMask m) then s ||| ((1#6) <<< m.2) else s

theorem syndrome_eq_foldl (c : Config) (w : BitVec 22) : c.syndrome w = c.eccMasks.foldl (syndromeStep w) 0#6 := rfl

theorem getLsbD_syndromeStep (w : BitVec 22) (s : BitVec 6) (m : BitVec 22 × Nat) {j : Nat} (hj : j < 6) :
    (syndromeStep w s m).getLsbD j = (s.getLsbD j || (parity (w &&& decMask m) && decide (m.2 = j))) := by
  have hbit : ((1#6) <<< m.2).getLsbD j = decide (m.2 = j) := by
    rw [getLsbD_bit, Bool.and_eq_right_iff_imp]
    intro hm
    exact decide_eq_true (of_decide_eq_true hm ▸ hj)
  unfold syndromeStep
  split
  · next hodd => simp [hodd, hbit]
  · next heven => simp [heven]

theorem getLsbD_foldl_syndromeStep (w : BitVec 22) (ms : List (BitVec 22 × Nat)) (s : BitVec 6) {j : Nat} (hj : j < 6) :
    (ms.foldl (syndromeStep w) s).getLsbD j =
      (s.getLsbD j || ms.any fun m => parity (w &&& decMask m) && decide (m.2 = j)) := by
  induction ms generalizing s with
  | nil => simp
  | cons m ms ih => rw [List.foldl_cons, ih, getLsbD_syndromeStep w s m hj, List.any_cons, Bool.or_assoc]

/-- At most one element of a numbered list has the number `j`. -/
theorem any_zipIdx_eq {α : Type} (f : α × Nat → Bool) (l : List α) (j : Nat) :
    (l.zipIdx.any fun m => f m && decide (m.2 = j)) = (l[j]?).any fun a => f (a, j) := by
  rw [Bool.eq_iff_iff]
  simp only [List.any_eq_true, Prod.exists, List.mem_zipIdx_iff_getElem?, Bool.and_eq_true, decide_eq_true_eq,
    Option.any_eq_true]
  constructor
  · rintro ⟨a, k, ha, hf, rfl⟩
    exact ⟨a, ha, hf⟩
  · rintro ⟨a, ha, hf⟩
    exact ⟨a, j, ha, hf, rfl⟩

theorem getLsbD_syndrome (c : Config) (w : BitVec 22) {j : Nat} (hj : j < 6) :
    (c.syndrome w).getLsbD j = (c.eccEncMasks[j]?).any fun m => parity (w &&& decMask (m, j)) := by
  rw [syndrome_eq_foldl, getLsbD_foldl_syndromeStep w _ _ hj, BitVec.getLsbD_zero, Bool.false_or]
  exact any_zipIdx_eq (fun m => parity (w &&& decMask m)) c.eccEncMasks j

theorem syndrome_xor (c : Config) (v w : BitVec 22) : c.syndrome (v ^^^ w) = c.syndrome v ^^^ c.syndrome w := by
  apply BitVec.eq_of_getLsbD_eq
  intro j hj
  rw [BitVec.getLsbD_xor, getLsbD_syndrome c _ hj, getLsbD_syndrome c _ hj, getLsbD_syndrome c _ hj]
  cases c.eccEncMasks[j]? with
  | none => rfl
  | some m => simp only [Option.any_some, xor_and_distrib, parity_xor]

theorem syndrome_eq_zero {c : Config} {w : BitVec 22} (h : ∀ m ∈ c.eccMasks, parity (w &&& decMask m) = false) :
    c.syndrome w = 0#6 := by
  apply BitVec.eq_of_getLsbD_eq
  intro j hj
  rw [syndrome_eq_foldl, getLsbD_foldl_syndromeStep w _ _ hj, Bool.or_eq_left_iff_imp]
  simp +contextual [h]

/-! ### An encoded word has syndrome 0 -/

/-- No bit of `w` from bit `n` on is set. -/
def ClearFrom (n : Nat) (w : BitVec 22) : Prop := ∀ i, n ≤ i → w.getLsbD i = false

/-- Every mask lies below its own check bit, which stands in the codeword. -/
def TriangularMasks (ms : List (BitVec 22 × Nat)) : Prop := ∀ m ∈ ms, m.2 < 6 ∧ ClearFrom (16 + m.2) m.1

/-- One step of the encoder: the check bit of mask `m` is set where its parity is odd. -/
def encodeStep (w : BitVec 22) (m : BitVec 22 × Nat) : BitVec 22 :=
  if parity (w &&& m.1) then w ||| ((1#22) <<< (16 + m.2)) else w

theorem codeword_eq_foldl (c : Config) (d : Half) : c.codeword d = c.eccMasks.foldl encodeStep (d.setWidth 22) := rfl

theorem clearFrom_iff_ushiftRight {n : Nat} {w : BitVec 22} : ClearFrom n w ↔ w >>> n = 0#22 := by
  constructor
  · intro h
    apply BitVec.eq_of_getLsbD_eq
    intro i _
    rw [BitVec.getLsbD_ushiftRight, BitVec.getLsbD_zero]
    exact h _ (Nat.le_add_right n i)
  · intro h i hi
    have hbit := congrArg (fun v => v.getLsbD (i - n)) h
    simpa only [BitVec.getLsbD_ushiftRight, BitVec.getLsbD_zero, Nat.add_sub_cancel' hi] using hbit

theorem getLsbD_encodeStep_ne (w : BitVec 22) {m : BitVec 22 × Nat} {i : Nat} (hi : i ≠ 16 + m.2) :
    (encodeStep w m).getLsbD i = w.getLsbD i := by
  unfold encodeStep
  split
  · rw [BitVec.getLsbD_or, getLsbD_bit, decide_eq_false hi.symm, Bool.and_false, Bool.or_false]
  · rfl

theorem or_bit_of_clear {w : BitVec 22} {k : Nat} (hw : w.getLsbD k = false) :
    w ||| ((1#22) <<< k) = w ^^^ ((1#22) <<< k) := by
  apply BitVec.eq_of_getLsbD_eq
  intro i _
  rw [BitVec.getLsbD_or, BitVec.getLsbD_xor, getLsbD_bit]
  by_cases hi : k = i
  · rw [← hi, hw, Bool.false_or, Bool.false_xor]
  · rw [decide_eq_false hi, Bool.and_false, Bool.or_false, Bool.xor_false]

theorem and_decMask_of_clear {w : BitVec 22} {m : BitVec 22 × Nat} (hw : w.getLsbD (16 + m.2) = false) :
    w &&& decMask m = w &&& m.1 := by
  apply BitVec.eq_of_getLsbD_eq
  intro i _
  rw [decMask, BitVec.getLsbD_and, BitVec.getLsbD_and, BitVec.getLsbD_or, getLsbD_bit]
  by_cases hi : 16 + m.2 = i
  · rw [← hi, hw, Bool.false_and, Bool.false_and]
  · rw [decide_eq_false hi, Bool.and_false, Bool.or_false]

theorem bit_and_decMask (m : BitVec 22 × Nat) :
    ((1#22) <<< (16 + m.2)) &&& decMask m = (1#22) <<< (16 + m.2) := by
  apply BitVec.eq_of_getLsbD_eq
  intro i _
  rw [decMask, BitVec.getLsbD_and, BitVec.getLsbD_or, Bool.and_eq_left_iff_imp]
  intro hbit
  rw [hbit, Bool.or_true]

/-- The check bit makes the parity of the decoder mask even. -/
theorem parity_encodeStep {w : BitVec 22} {m : BitVec 22 × Nat} (hm : m.2 < 6)
    (hw : w.getLsbD (16 + m.2) = false) : parity (encodeStep w m &&& decMask m) = false := by
  unfold encodeStep
  split
  · next hodd =>
    rw [or_bit_of_clear hw, xor_and_distrib, bit_and_decMask, parity_xor, and_decMask_of_clear hw, hodd,
      parity_bit _ (by omega), Bool.xor_self]
  · next heven => rw [and_decMask_of_clear hw, Bool.eq_false_iff.2 heven]

/-- The check bits `n` on leave the bits below their own. -/
theorem getLsbD_foldl_encodeStep (ms : List (BitVec 22)) (n : Nat) (w : BitVec 22) {i : Nat}
    (htri : TriangularMasks (ms.zipIdx n)) (hi : i < 16 + n) :
    ((ms.zipIdx n).foldl encodeStep w).getLsbD i = w.getLsbD i := by
  induction ms generalizing n w with
  | nil => rfl
  | cons m ms ih =>
    rw [List.zipIdx_cons, TriangularMasks, List.forall_mem_cons] at htri
    obtain ⟨-, hrest⟩ := htri
    rw [List.zipIdx_cons, List.foldl_cons, ih (n + 1) _ hrest (by omega)]
    exact getLsbD_encodeStep_ne w (by simp only; omega)

/-- Each check bit makes its own mask even, and later check bits lie outside that mask. -/
theorem parity_foldl_encodeStep (ms : List (BitVec 22)) (n : Nat) (w : BitVec 22)
    (htri : TriangularMasks (ms.zipIdx n)) (hw : ClearFrom (16 + n) w) :
    ∀ m ∈ ms.zipIdx n, parity ((ms.zipIdx n).foldl encodeStep w &&& decMask m) = false := by
  induction ms generalizing n w with
  | nil => simp
  | cons m ms ih =>
    rw [List.zipIdx_cons, TriangularMasks, List.forall_mem_cons] at htri
    obtain ⟨⟨hn, hmask⟩, hrest⟩ := htri
    rw [List.zipIdx_cons, List.forall_mem_cons, List.foldl_cons]
    have hnext : ClearFrom (16 + (n + 1)) (encodeStep w (m, n)) := fun i hi =>
      (getLsbD_encodeStep_ne w (by simp only; omega)).trans (hw i (by omega))
    refine ⟨?_, ih (n + 1) _ hrest hnext⟩
    have hkept : (ms.zipIdx (n + 1)).foldl encodeStep (encodeStep w (m, n)) &&& decMask (m, n) =
        encodeStep w (m, n) &&& decMask (m, n) := by
      apply BitVec.eq_of_getLsbD_eq
      intro i _
      rw [BitVec.getLsbD_and, BitVec.getLsbD_and]
      rcases Nat.lt_or_ge i (16 + (n + 1)) with hlow | hhigh
      · rw [getLsbD_foldl_encodeStep ms (n + 1) _ hrest hlow]
      · have hclear : (decMask (m, n)).getLsbD i = false := by
          rw [decMask, BitVec.getLsbD_or, hmask i (by simp only; omega), getLsbD_bit, Bool.false_or,
            decide_eq_false (by omega : ¬ 16 + n = i), Bool.and_false]
        rw [hclear, Bool.and_false, Bool.and_false]
    rw [hkept]
    exact parity_encodeStep hn (hw _ le_rfl)

theorem clearFrom_data (d : Half) : ClearFrom 16 (d.setWidth 22) := fun i hi => by
  rw [BitVec.getLsbD_setWidth, BitVec.getLsbD_of_ge d i hi, Bool.and_false]

theorem syndrome_codeword {c : Config} (htri : TriangularMasks c.eccMasks) (d : Half) :
    c.syndrome (c.codeword d) = 0#6 := by
  rw [codeword_eq_foldl]
  exact syndrome_eq_zero (parity_foldl_encodeStep c.eccEncMasks 0 _ htri (clearFrom_data d))

theorem codeword_low {c : Config} (htri : TriangularMasks c.eccMasks) (d : Half) :
    (c.codeword d).extractLsb' 0 16 = d := by
  apply BitVec.eq_of_getLsbD_eq
  intro i hi
  have hkept : (c.codeword d).getLsbD i = (d.setWidth 22).getLsbD i := by
    rw [codeword_eq_foldl]
    exact getLsbD_foldl_encodeStep c.eccEncMasks 0 _ htri hi
  simp only [BitVec.getLsbD_extractLsb', Nat.zero_add, hkept, BitVec.getLsbD_setWidth, hi, decide_true, Bool.true_and,
    decide_eq_true (show i < 22 by omega)]

/-- The stored code beside its data is the codeword. -/
theorem ecc16_append {c : Config} (htri : TriangularMasks c.eccMasks) (d : Half) : c.ecc16 d ++ d = c.codeword d := by
  have hjoin : (c.codeword d).extractLsb' 16 6 ++ (c.codeword d).extractLsb' 0 16 = (c.codeword d).extractLsb' 0 22 :=
    BitVec.extractLsb'_append_extractLsb'_eq_extractLsb' rfl
  rwa [codeword_low htri, BitVec.extractLsb'_eq_self] at hjoin

/-! ### The columns of the default masks -/

/-- The column table of spec/40_ecc.md R154, from bit 0 to bit 21. -/
def defaultColumns : List (BitVec 6) :=
  [0x23#6, 0x25#6, 0x26#6, 0x27#6, 0x29#6, 0x2A#6, 0x2B#6, 0x2C#6, 0x2D#6, 0x2E#6, 0x2F#6, 0x31#6, 0x32#6, 0x33#6,
    0x34#6, 0x35#6, 0x21#6, 0x22#6, 0x24#6, 0x28#6, 0x30#6, 0x20#6]

/-- The column of every bit of a codeword has the overall parity bit, and no two bits share a column
(spec/40_ecc.md R154). -/
structure OddDistinctColumns (c : Config) : Prop where
  odd : ∀ i, i < 22 → (c.column i).getLsbD 5 = true
  distinct : ∀ i j, i < 22 → j < 22 → c.column i = c.column j → i = j

theorem column_default {c : Config} (h : c.eccEncMasks = defaultEccMasks) :
    ∀ i (hi : i < 22), c.column i = defaultColumns[i] := by
  simp only [Config.column, Config.syndrome, Config.eccMasks, h]
  decide

theorem oddDistinctColumns_default {c : Config} (h : c.eccEncMasks = defaultEccMasks) : OddDistinctColumns c where
  odd i hi := by
    have hodd : ∀ s ∈ defaultColumns, s.getLsbD 5 = true := by decide
    rw [column_default h i hi]
    exact hodd _ (List.getElem_mem _)
  distinct i j hi hj heq := by
    have hnodup : defaultColumns.Nodup := by decide
    rw [column_default h i hi, column_default h j hj] at heq
    exact hnodup.getElem_inj_iff.1 heq

theorem triangularMasks_default {c : Config} (h : c.eccEncMasks = defaultEccMasks) : TriangularMasks c.eccMasks := by
  simp only [TriangularMasks, clearFrom_iff_ushiftRight, Config.eccMasks, h]
  decide

/-! ### What `verify22` answers, by the syndrome (spec/40_ecc.md R153) -/

theorem verify22_of_zero {c : Config} {w : BitVec 22} (h : c.syndrome w = 0#6) :
    c.verify22 w = (w.extractLsb' 0 16, .clean) :=
  if_pos h

theorem verify22_of_even {c : Config} {w : BitVec 22} (hne : c.syndrome w ≠ 0#6)
    (heven : (c.syndrome w).getLsbD 5 = false) : c.verify22 w = (w.extractLsb' 0 16, .uncorrectable) :=
  (if_neg hne).trans (if_neg (Bool.eq_false_iff.1 heven))

theorem flippedBit_column_data {c : Config} (hcol : OddDistinctColumns c) {i : Nat} (hi : i < 16) :
    c.flippedBit (c.column i) = some i := by
  refine List.find?_range_eq_some.2 ⟨decide_eq_true rfl, List.mem_range.2 hi, fun j hj => ?_⟩
  have hne : c.column j ≠ c.column i := fun heq => hj.ne (hcol.distinct j i (by omega) (by omega) heq)
  simp [hne]

theorem flippedBit_column_check {c : Config} (hcol : OddDistinctColumns c) {i : Nat} (hlow : 16 ≤ i) (hi : i < 22) :
    c.flippedBit (c.column i) = none := by
  refine List.find?_range_eq_none.2 fun j hj => ?_
  have hne : c.column j ≠ c.column i := fun heq => by have := hcol.distinct j i (by omega) hi heq; omega
  simp [hne]

/-- A syndrome that is the column of bit `i` flips bit `i` of the data, which for a check bit is no bit. -/
theorem verify22_of_column {c : Config} (hcol : OddDistinctColumns c) {w : BitVec 22} {i : Nat} (hi : i < 22)
    (h : c.syndrome w = c.column i) :
    c.verify22 w = (w.extractLsb' 0 16 ^^^ ((1#16) <<< i), .corrected) := by
  have hodd := hcol.odd i hi
  have hne : c.column i ≠ 0#6 := fun hzero => by simp [hzero] at hodd
  simp only [Config.verify22, h, if_neg hne, if_pos hodd]
  rcases Nat.lt_or_ge i 16 with hdata | hcheck
  · rw [flippedBit_column_data hcol hdata]
  · rw [flippedBit_column_check hcol hcheck hi, BitVec.shiftLeft_eq_zero hcheck, BitVec.xor_zero]

/-! ### An encoded half-word, whole and with flips (spec/40_ecc.md R155) -/

theorem low_flip (w : BitVec 22) (i : Nat) :
    (w ^^^ ((1#22) <<< i)).extractLsb' 0 16 = w.extractLsb' 0 16 ^^^ ((1#16) <<< i) := by
  apply BitVec.eq_of_getLsbD_eq
  intro k hk
  simp [hk, show k < 22 by omega]

theorem syndrome_flip (c : Config) (w : BitVec 22) (i : Nat) :
    c.syndrome (w ^^^ ((1#22) <<< i)) = c.syndrome w ^^^ c.column i :=
  syndrome_xor c w _

theorem verify22_codeword {c : Config} (htri : TriangularMasks c.eccMasks) (d : Half) :
    c.verify22 (c.ecc16 d ++ d) = (d, .clean) := by
  rw [ecc16_append htri, verify22_of_zero (syndrome_codeword htri d), codeword_low htri]

theorem verify22_oneFlip {c : Config} (htri : TriangularMasks c.eccMasks) (hcol : OddDistinctColumns c) (d : Half)
    {i : Nat} (hi : i < 22) : c.verify22 ((c.ecc16 d ++ d) ^^^ ((1#22) <<< i)) = (d, .corrected) := by
  have hsyn : c.syndrome (c.codeword d ^^^ ((1#22) <<< i)) = c.column i := by
    rw [syndrome_flip, syndrome_codeword htri, BitVec.zero_xor]
  rw [ecc16_append htri, verify22_of_column hcol hi hsyn, low_flip, codeword_low htri, BitVec.xor_assoc, BitVec.xor_self,
    BitVec.xor_zero]

theorem verify22_twoFlips {c : Config} (htri : TriangularMasks c.eccMasks) (hcol : OddDistinctColumns c) (d : Half)
    {i j : Nat} (hij : i < j) (hj : j < 22) :
    (c.verify22 ((c.ecc16 d ++ d) ^^^ ((1#22) <<< i) ^^^ ((1#22) <<< j))).2 = .uncorrectable := by
  have hsyn : c.syndrome (c.codeword d ^^^ ((1#22) <<< i) ^^^ ((1#22) <<< j)) = c.column i ^^^ c.column j := by
    rw [syndrome_flip, syndrome_flip, syndrome_codeword htri, BitVec.zero_xor]
  have hne : c.column i ^^^ c.column j ≠ 0#6 := fun h =>
    hij.ne (hcol.distinct i j (hij.trans hj) hj (BitVec.xor_eq_zero_iff.1 h))
  have heven : (c.column i ^^^ c.column j).getLsbD 5 = false := by
    rw [BitVec.getLsbD_xor, hcol.odd i (hij.trans hj), hcol.odd j hj, Bool.xor_self]
  rw [ecc16_append htri, verify22_of_even (hsyn ▸ hne) (hsyn ▸ heven)]

/-! ### Words and double words (spec/40_ecc.md R156 to R158) -/

theorem halves_append (w : Word) : w.extractLsb' 16 16 ++ w.extractLsb' 0 16 = w :=
  (BitVec.extractLsb'_append_extractLsb'_eq_extractLsb' rfl).trans BitVec.extractLsb'_eq_self

theorem extractLsb'_codes_low (x y : BitVec 6) : (x.setWidth 8 ++ y.setWidth 8).extractLsb' 0 6 = y := by
  apply BitVec.eq_of_getLsbD_eq
  intro i hi
  rw [BitVec.getLsbD_extractLsb', BitVec.getLsbD_append]
  simp [hi, show i < 8 by omega]

theorem extractLsb'_codes_high (x y : BitVec 6) : (x.setWidth 8 ++ y.setWidth 8).extractLsb' 8 6 = x := by
  apply BitVec.eq_of_getLsbD_eq
  intro i hi
  rw [BitVec.getLsbD_extractLsb', BitVec.getLsbD_append]
  simp [hi, show i < 8 by omega]

theorem ecc32_low (c : Config) (w : Word) : (c.ecc32 w).extractLsb' 0 6 = c.ecc16 (w.extractLsb' 0 16) :=
  extractLsb'_codes_low _ _

theorem ecc32_high (c : Config) (w : Word) : (c.ecc32 w).extractLsb' 8 6 = c.ecc16 (w.extractLsb' 16 16) :=
  extractLsb'_codes_high _ _

theorem ecc64_low (c : Config) (w : DWord) : (c.ecc64 w).extractLsb' 0 16 = c.ecc32 (w.extractLsb' 0 32) :=
  BitVec.extractLsb'_append_eq_right

theorem ecc64_high (c : Config) (w : DWord) : (c.ecc64 w).extractLsb' 16 16 = c.ecc32 (w.extractLsb' 32 32) :=
  BitVec.extractLsb'_append_eq_left

theorem verify32_encoded {c : Config} (htri : TriangularMasks c.eccMasks) (w : Word) :
    c.verify32 w (c.ecc32 w) = (w, .clean) := by
  simp only [Config.verify32, ecc32_low, ecc32_high, verify22_codeword htri, halves_append]
  rfl

theorem verify64_encoded {c : Config} (htri : TriangularMasks c.eccMasks) (w : DWord) :
    c.verify64 w (c.ecc64 w) = (w, .clean) := by
  simp only [Config.verify64, ecc64_low, ecc64_high, verify32_encoded htri, Machine.dword_halves]
  rfl

/-- Settles O38: the default masks are triangular and their columns distinct and odd. -/
theorem eccCorrectsOneDetectsTwo : Obligations.EccCorrectsOneDetectsTwo := by
  intro c h
  have htri := triangularMasks_default h
  have hcol := oddDistinctColumns_default h
  exact ⟨verify22_codeword htri, fun d i hi => verify22_oneFlip htri hcol d hi,
    fun d i j hij hj => verify22_twoFlips htri hcol d hij hj, verify32_encoded htri, verify64_encoded htri⟩

end Sys2Proof
end

section
/-! What a DAI command leaves (spec/42_dai.md R201 to R206, R220): the gate, the components each shared end of a command
leaves alone, and the state a rejection, a publication and a store end in. -/

namespace Sys2Proof.Machine

variable {s t u : State} {p : Nat}

/-! ### The acceptance gate (spec/42_dai.md R201) -/

theorem State.regwen_iff (s : State) : s.regwen = true ↔ s.dai.regwenSw = true ∧ s.dai.fsm = .idle := by
  simp [State.regwen]

theorem State.regwen_of_open (enabled : s.dai.regwenSw = true) (idle : s.dai.fsm = .idle) : s.regwen = true :=
  s.regwen_iff.mpr ⟨enabled, idle⟩

theorem daiGate_open (f : State → State) (opened : s.regwen = true) : daiGate f s = f s := if_pos opened

theorem daiGate_closed (f : State → State) (closed : ¬ s.regwen = true) : daiGate f s = s := if_neg closed

theorem complete_self (s : State) : complete s s = .next s := complete_same s s rfl rfl rfl

theorem complete_daiGate_closed (f : State → State) (closed : ¬ s.regwen = true) :
    complete s (daiGate f s) = .next s := by
  rw [daiGate_closed f closed, complete_self]

theorem gatedWrite_closed (f : State → State) (closed : ¬ s.regwen = true) : gatedWrite f s = .next s :=
  complete_daiGate_closed f closed

/-- Settles O17: every write of the DAI and of a read lock goes through the gate. -/
theorem closedGateIgnoresWrites : Obligations.ClosedGateIgnoresWrites := by
  intro s shut
  have closed : ¬ s.regwen = true := mt s.regwen_iff.mp shut
  exact ⟨fun _ => complete_daiGate_closed _ closed, fun _ => complete_daiGate_closed _ closed,
    fun _ => complete_daiGate_closed _ closed, fun _ => complete_daiGate_closed _ closed, fun _ => complete_self s,
    fun _ => gatedWrite_closed _ closed, fun _ => gatedWrite_closed _ closed, fun _ => gatedWrite_closed _ closed,
    fun _ _ placed => (if_pos placed).trans (gatedWrite_closed _ closed)⟩

/-! ### The command of a value (spec/30_encoding.md R108, spec/42_dai.md R224) -/

theorem daiCommand_rd {v : Word} (bit0 : v.getLsbD 0 = true) : daiCommand v = daiRead :=
  funext fun _ => if_pos bit0

theorem daiCommand_wr {v : Word} (bit0 : v.getLsbD 0 = false) (bit1 : v.getLsbD 1 = true) :
    daiCommand v = daiWrite := by
  funext s
  simp only [daiCommand, bit0, bit1, Bool.false_eq_true, if_true, if_false]

theorem daiCommand_digest {v : Word} (bit0 : v.getLsbD 0 = false) (bit1 : v.getLsbD 1 = false)
    (bit2 : v.getLsbD 2 = true) : daiCommand v = daiDigest := by
  funext s
  simp only [daiCommand, bit0, bit1, bit2, Bool.false_eq_true, if_true, if_false]

theorem daiCommand_none {v : Word} (bit0 : v.getLsbD 0 = false) (bit1 : v.getLsbD 1 = false)
    (bit2 : v.getLsbD 2 = false) : daiCommand v = id := by
  funext s
  simp only [daiCommand, bit0, bit1, bit2, Bool.false_eq_true, if_false, id]

theorem exec_wrDaiCmd_none {v : Word} (bit0 : v.getLsbD 0 = false) (bit1 : v.getLsbD 1 = false)
    (bit2 : v.getLsbD 2 = false) : exec (.wrDaiCmd v) s = .next s := by
  have gated : daiGate id s = s := daiGate_keeps s id id rfl
  simp only [exec, execWrDaiCmd, daiCommand_none bit0 bit1 bit2, gated, complete_self]

/-- Settles O20: bit by bit from the lowest, the value's command is the one of the pattern. -/
theorem commandValueSelectsCommand : Obligations.CommandValueSelectsCommand := by
  intro s v
  refine ⟨State.updateOutputs s (daiGate (daiCommand v) s), rfl, fun bit0 x => ?_, fun bit0 bit1 x => ?_,
    fun bit0 bit1 bit2 x => ?_, fun bit0 bit1 bit2 => ⟨?_, fun x => complete_self s⟩⟩
  · rw [daiCommand_rd bit0]
    rfl
  · rw [daiCommand_wr bit0 bit1]
    rfl
  · rw [daiCommand_digest bit0 bit1 bit2]
    rfl
  · exact Host.Outcome.next.inj (exec_wrDaiCmd_none bit0 bit1 bit2)

/-! ### Frames: what each shared operation of the DAI changes, and how changes compose -/

theorem State.agree_trans {f : Field} (h : s.agree t f) (h' : t.agree u f) : s.agree u f := by
  cases f <;> exact Eq.trans h' h

/-- Two changes, one after the other, change no more than both do. -/
theorem State.frame.append {c d : List Field} (h : s.frame c t) (h' : t.frame d u) : s.frame (c ++ d) u := fun f out =>
  State.agree_trans (h f fun first => out (List.mem_append_left d first))
    (h' f fun second => out (List.mem_append_right c second))

theorem State.frame.mono {c d : List Field} (h : s.frame c t) (sub : c ⊆ d) : s.frame d t := fun f out =>
  h f fun listed => out (sub listed)

/-- A component that ends with its first value need not be listed. -/
theorem State.frame.restore {f : Field} {c : List Field} (h : s.frame (f :: c) t) (back : s.agree t f) :
    s.frame c t := by
  intro g out
  by_cases same : g = f
  · exact same ▸ back
  · exact h g (by simp [same, out])

theorem State.updateOutputs_frame (s t : State) : t.frame [.outputs] (State.updateOutputs s t) := by
  intro f out
  cases f <;> simp [State.agree] at out ⊢

theorem State.daiAccept_frame (s : State) (x : DaiFsm) : s.frame [.dai, .err] (s.daiAccept x) := by
  intro f out
  cases f <;> simp [State.agree] at out ⊢

theorem State.daiFinish_frame (s : State) : s.frame [.dai, .intrState] s.daiFinish := by
  intro f out
  cases f <;> simp [State.agree] at out ⊢

theorem State.daiWait_frame (s : State) (p : Nat) (w : DaiFsm) : s.frame [.dai, .pending] (s.daiWait p w) := by
  intro f out
  cases f <;> simp [State.agree] at out ⊢

theorem State.updPart_frame (s : State) (p : Nat) (f : Part → Part) : s.frame [.parts] (s.updPart p f) := by
  intro f out
  cases f <;> simp [State.agree] at out ⊢

/-- A recoverable code latches no alert. -/
theorem State.reject_frame (s : State) {code : ErrCode} (mild : alertOf code = 0#2) :
    s.frame [.dai, .err, .intrState] (s.reject code) := by
  intro f out
  cases f <;> simp [State.agree, mild] at out ⊢

theorem State.fatal_frame (s : State) (code : ErrCode) :
    s.frame [.dai, .err, .intrState, .alertLatch] (s.fatal code) := by
  intro f out
  cases f <;> simp [State.agree] at out ⊢

theorem State.daiStore_frame (s : State) (r : Image × Bool) (a n : Nat) :
    s.frame [.image, .backing, .err, .intrState, .draws] (s.daiStore r a n) := by
  intro f out
  cases f <;> simp [State.agree] at out ⊢

/-! ### Rejection (spec/42_dai.md R203) -/

theorem or_error_or_done : ∀ v : BitVec 2, v ||| errorBit ||| doneBit = 3#2 := by decide

theorem reject_rejectedTo (s : State) (x : DaiFsm) {code : ErrCode} (wrong : code ≠ .noError)
    (mild : alertOf code = 0#2) : s.rejectedTo code (State.updateOutputs s ((s.daiAccept x).reject code)) := by
  refine ⟨?_, rfl, ?_, ?_⟩
  · simp [Config.daiSlot]
  · simp [interruptOf, wrong, or_error_or_done]
  · exact (((s.daiAccept_frame x).append (State.reject_frame _ mild)).append (State.updateOutputs_frame s _)).mono
      (by simp)

end Sys2Proof.Machine
end

section
/-! A DAI read (spec/42_dai.md R205, R206): rejected, fatal, or published, and then finished at once or on `DaiDone`
(R220, R221). -/

namespace Sys2Proof.Machine

variable {s t : State} {p a : Nat}

/-! ### The target of a command -/

@[simp] theorem State.daiAccept_daiTarget (s : State) (x : DaiFsm) (a : Nat) :
    (s.daiAccept x).daiTarget a = s.daiTarget a := rfl

@[simp] theorem State.daiAccept_isReadable (s : State) (x : DaiFsm) (p a : Nat) :
    (s.daiAccept x).isReadable p a = s.isReadable p a := rfl

@[simp] theorem State.daiAccept_writeRefusal (s : State) (x : DaiFsm) (p a : Nat) :
    (s.daiAccept x).writeRefusal p a = s.writeRefusal p a := rfl

@[simp] theorem State.daiAccept_digestRefusal (s : State) (x : DaiFsm) (p : Nat) :
    (s.daiAccept x).digestRefusal p = s.digestRefusal p := rfl

@[simp] theorem State.daiAccept_storedBytes (s : State) (x : DaiFsm) (p : Nat) :
    (s.daiAccept x).storedBytes p = s.storedBytes p := rfl

theorem State.daiTarget_none (h : s.cfg.partitionOf a = none ∨ s.cfg.partitionOf a = some s.cfg.lcPart) :
    s.daiTarget a = none := by
  rcases h with h | h <;> simp [State.daiTarget, h, Config.isLc]

theorem State.daiTarget_of (target : s.cfg.partitionOf a = some p) (notLc : p ≠ s.cfg.lcPart) :
    s.daiTarget a = some p := by
  simp [State.daiTarget, target, Config.isLc, notLc]

/-! ### The read by its checks -/

theorem exec_daiRd (x : BitVec 31) (opened : s.regwen = true) :
    exec (.daiRd x) s = .next (State.updateOutputs s (daiRead s)) :=
  congrArg (complete s) (daiGate_open daiRead opened)

theorem daiRead_untargeted (h : s.daiTarget s.dai.address.toNat = none) :
    daiRead s = (s.daiAccept .read).reject .access := by
  simp [daiRead, h]

theorem daiRead_unreadable (h : s.daiTarget s.dai.address.toNat = some p)
    (unreadable : s.isReadable p s.dai.address.toNat = false) : daiRead s = (s.daiAccept .read).reject .access := by
  simp [daiRead, h, unreadable]

theorem daiRead_fatal (h : s.daiTarget s.dai.address.toNat = some p)
    (readable : s.isReadable p s.dai.address.toNat = true)
    (bad : (s.cfg.daiValue s.image p s.dai.address.toNat).2 = .uncorrectable) :
    daiRead s = (s.daiAccept .read).fatal .eccUncorrectable := by
  simp [daiRead, h, readable, bad]

theorem daiRead_publishes (h : s.daiTarget s.dai.address.toNat = some p)
    (readable : s.isReadable p s.dai.address.toNat = true) {v : DWord} {sev : Severity}
    (value : s.cfg.daiValue s.image p s.dai.address.toNat = (v, sev)) (usable : sev ≠ .uncorrectable) :
    daiRead s = (s.daiAccept .read).daiPublish p v sev := by
  simp [daiRead, h, readable, value, usable]

/-- The checked value: the granule's 64 bits, or 32 with a zero high half (spec/42_dai.md R205, R73, R77). -/
theorem daiValue_eq (c : Config) (img : Image) (p a : Nat) : c.daiValue img p a =
    if c.isWideGranule p a then c.eccCheck64 img (a / 8 * 8)
    else ((0#32 ++ (c.eccCheck32 img (a / 4 * 4)).1 : BitVec (32 + 32)), (c.eccCheck32 img (a / 4 * 4)).2) := by
  simp only [Config.daiValue, alignDown, BitVec.setWidth_eq_append (show 32 ≤ 64 by decide)]
  rfl

/-! ### The published value -/

/-- An accepted read's data in RDATA and a correction in the DAI slot, before the command ends (spec/42_dai.md R205). -/
def State.published (v : DWord) (sev : Severity) (s : State) : State :=
  let s1 := s.mapDai fun d => { d with rdata0 := v.extractLsb' 0 32, rdata1 := v.extractLsb' 32 32 }
  if sev = .corrected then s1.record s1.cfg.daiSlot .eccCorrectable else s1

theorem daiPublish_buffered (h : (s.cfg.desc p).buffered = true) (v : DWord) (sev : Severity) :
    s.daiPublish p v sev = (s.published v sev).daiFinish := by
  cases sev <;> exact if_pos h

theorem daiPublish_unbuffered (h : (s.cfg.desc p).buffered = false) (v : DWord) (sev : Severity) :
    s.daiPublish p v sev = (s.published v sev).daiWait p .readWait := by
  cases sev <;> exact if_neg (Bool.eq_false_iff.mp h)

variable (s) (v : DWord) (sev : Severity)

@[simp] theorem State.published_dai : (s.published v sev).dai =
    { s.dai with rdata0 := v.extractLsb' 0 32, rdata1 := v.extractLsb' 32 32 } := by
  cases sev <;> rfl

@[simp] theorem State.published_pending : (s.published v sev).pending = s.pending := by
  cases sev <;> rfl

theorem State.published_err : (s.published v sev).err =
    if sev = .corrected then s.err.set s.cfg.nPart .eccCorrectable else s.err := by
  cases sev <;> rfl

theorem State.published_intrState : (s.published v sev).intrState =
    s.intrState ||| if sev = .corrected then 2#2 else 0#2 := by
  cases sev <;> simp [State.published, interruptOf, errorBit]

theorem State.published_frame : s.frame [.dai, .err, .intrState] (s.published v sev) := by
  intro f out
  cases f <;> cases sev <;> simp [State.agree, State.published, alertOf] at out ⊢

/-- The slot of the DAI after an accepted read: cleared at first (spec/42_dai.md R202), then a correction. -/
theorem daiAccept_published_err (x : DaiFsm) : ((s.daiAccept x).published v sev).err =
    s.err.set s.cfg.nPart (if sev = .corrected then .eccCorrectable else .noError) := by
  cases sev <;> simp [State.published_err, Config.daiSlot]

/-! ### Completion of a read or a write (spec/42_dai.md R220, R221) -/

/-- The completion taken off the pending events. -/
def State.daiFired (s : State) : State := (s.unschedule .daiDone).mapDai fun d => { d with pending := false }

theorem State.daiFired_frame : s.frame [.dai, .pending] s.daiFired := by
  intro f out
  cases f <;> simp [State.agree, State.daiFired] at out ⊢

variable {s}

theorem exec_fireDaiDone (owed : .daiDone ∈ s.pending) :
    exec .fireDaiDone s = .next (State.updateOutputs s (daiDone s)) := if_pos owed

theorem daiDone_finishes (waiting : s.dai.fsm = .readWait ∨ s.dai.fsm = .writeWait) :
    daiDone s = s.daiFired.daiFinish := by
  unfold daiDone
  rcases waiting with fsm | fsm <;> simp only [State.mapDai_dai, State.unschedule_dai, fsm] <;> rfl

theorem daiDone_failed (failed : s.dai.fsm = .error) : daiDone s = s.daiFired := by
  unfold daiDone
  simp only [State.mapDai_dai, State.unschedule_dai, failed]
  rfl

/-- Settles O29: a waiting read or write finishes, and a failed DAI only takes the event off. -/
theorem daiDoneEndsTheCommand : Obligations.DaiDoneEndsTheCommand := by
  intro s owed
  refine ⟨fun waiting => ⟨_, exec_fireDaiDone owed, ?_⟩, fun failed => ?_⟩
  · rw [daiDone_finishes waiting]
    exact ⟨rfl, rfl, rfl, (((s.daiFired_frame.append (State.daiFinish_frame _)).append
      (State.updateOutputs_frame s _)).mono (by simp))⟩
  · rw [exec_fireDaiDone owed, daiDone_failed failed]
    exact complete_same s s.daiFired rfl rfl rfl

/-! ### The statements about reads -/

/-- Settles O21: each failed check of rule R205 rejects with AccessError. -/
theorem unreadableReadIsRejected : Obligations.UnreadableReadIsRejected := by
  intro s x enabled idle bad
  refine ⟨_, exec_daiRd x (s.regwen_of_open enabled idle), ?_⟩
  have rejected : daiRead s = (s.daiAccept .read).reject .access := by
    rcases bad with noPart | lc | ⟨p, target, unreadable⟩
    · exact daiRead_untargeted (State.daiTarget_none (.inl noPart))
    · exact daiRead_untargeted (State.daiTarget_none (.inr lc))
    · by_cases lc : p = s.cfg.lcPart
      · exact daiRead_untargeted (State.daiTarget_none (.inr (lc ▸ target)))
      · exact daiRead_unreadable (State.daiTarget_of target lc) unreadable
  rw [rejected]
  exact reject_rejectedTo s .read (by simp) rfl

/-- Settles O24: the severity of the checked value makes the read fatal before RDATA is published. -/
theorem uncorrectableReadIsFatal : Obligations.UncorrectableReadIsFatal := by
  intro s x p enabled idle target notLc readable bad
  refine ⟨_, exec_daiRd x (s.regwen_of_open enabled idle), ?_⟩
  have severity : (s.cfg.daiValue s.image p s.dai.address.toNat).2 = .uncorrectable := by
    rw [daiValue_eq, apply_ite Prod.snd]
    exact bad
  rw [daiRead_fatal (State.daiTarget_of target notLc) readable severity]
  refine ⟨rfl, ?_, rfl, rfl, ?_⟩
  · simp [Config.daiSlot]
  · exact (((s.daiAccept_frame .read).append (State.fatal_frame _ _)).append (State.updateOutputs_frame s _)).mono
      (by simp)

/-- Settles O22: a buffered partition's read publishes and finishes in the same operation. -/
theorem bufferedReadCompletesAtOnce : Obligations.BufferedReadCompletesAtOnce := by
  intro s x p v sev enabled idle target notLc readable buffered value usable
  refine ⟨_, exec_daiRd x (s.regwen_of_open enabled idle), ?_⟩
  rw [daiRead_publishes (State.daiTarget_of target notLc) readable ((daiValue_eq _ _ _ _).trans value.symm) usable,
    daiPublish_buffered (s := s.daiAccept .read) buffered]
  refine ⟨by simp, ?_, ?_, ?_⟩
  · exact daiAccept_published_err s v sev .read
  · cases sev <;> simp [State.published_intrState, doneBit, BitVec.or_assoc]
  · exact ((((s.daiAccept_frame .read).append (State.published_frame _ v sev)).append
      (State.daiFinish_frame _)).append (State.updateOutputs_frame s _)).mono (by simp)

/-- Settles O23: an unbuffered partition's read publishes and waits, and its completion finishes it. -/
theorem unbufferedReadCompletesOnDone : Obligations.UnbufferedReadCompletesOnDone := by
  intro s x p v sev enabled idle free target notLc readable unbuffered value usable
  have started := exec_daiRd x (s.regwen_of_open enabled idle)
  rw [daiRead_publishes (State.daiTarget_of target notLc) readable ((daiValue_eq _ _ _ _).trans value.symm) usable,
    daiPublish_unbuffered (s := s.daiAccept .read) unbuffered] at started
  set t := State.updateOutputs s (((s.daiAccept .read).published v sev).daiWait p .readWait) with ht
  have frame : s.frame [.dai, .pending, .err, .intrState, .outputs] t :=
    ((((s.daiAccept_frame .read).append (State.published_frame _ v sev)).append (State.daiWait_frame _ p _)).append
      (State.updateOutputs_frame s _)).mono (by simp)
  have pending : t.pending = s.pending ++ [.daiDone] := by simp [ht]
  obtain ⟨u, done, dai, taken, intr, frame'⟩ := (daiDoneEndsTheCommand t (by simp [pending])).1 (.inl rfl)
  have restored : u.pending = s.pending := by
    rw [taken, pending, List.erase_append_right _ free]
    simp
  refine ⟨t, u, started, done, rfl, rfl, rfl, pending, daiAccept_published_err s v sev .read,
    State.published_intrState _ v sev, frame, ?_, restored, frame' .err (by simp), intr, ?_⟩
  · rw [dai]
    simp [ht]
  · exact State.frame.restore ((frame.append frame').mono (by simp)) (f := .pending) restored

end Sys2Proof.Machine
end

section
/-! A DAI write and a digest command (spec/42_dai.md R210 to R216, R222): the checks in order, and what an accepted one
stores or computes. -/

namespace Sys2Proof.Machine

variable {s : State} {p a n : Nat}

/-! ### The code a store of the DAI leaves (spec/42_dai.md R210, R212, R222) -/

@[simp] theorem State.daiStore_image (s : State) (r : Image × Bool) (a n : Nat) : (s.daiStore r a n).image = r.1 := by
  unfold State.daiStore
  dsimp only
  split <;> simp

section
variable {r : Image × Bool} {v : DWord} (blank : r.2 = clearsBit a n v s.image)
include blank

/-- A failed write-back hides a blank-write error. -/
theorem daiStore_err_code : (s.daiStore r a n).err =
    if s.programCode a n v = .noError then s.err else s.err.set s.cfg.nPart (s.programCode a n v) := by
  rw [State.daiStore_err, State.programCode, blank]
  cases s.backing.isSome && !Config.persistOk s.draws <;> cases clearsBit a n v s.image <;> simp

theorem daiStore_intrState_code : (s.daiStore r a n).intrState =
    s.intrState ||| if s.programCode a n v = .noError then 0#2 else 2#2 := by
  rw [State.daiStore_intrState, State.programCode, blank]
  cases s.backing.isSome && !Config.persistOk s.draws <;> cases clearsBit a n v s.image <;> simp

end

theorem or_code_or_done (v : BitVec 2) (clean : Prop) [Decidable clean] :
    v ||| (if clean then 0#2 else 2#2) ||| doneBit = v ||| if clean then 1#2 else 3#2 := by
  split <;> simp [doneBit, BitVec.or_assoc]

/-! ### The write by its checks -/

theorem exec_daiWr (x : BitVec 30) (opened : s.regwen = true) :
    exec (.daiWr x) s = .next (State.updateOutputs s (daiWrite s)) :=
  congrArg (complete s) (daiGate_open daiWrite opened)

theorem daiWrite_untargeted (h : s.daiTarget s.dai.address.toNat = none) :
    daiWrite s = (s.daiAccept .write).reject .access := by
  simp [daiWrite, h]

theorem daiWrite_refused (h : s.daiTarget s.dai.address.toNat = some p) {code : ErrCode}
    (refused : s.writeRefusal p s.dai.address.toNat = some code) :
    daiWrite s = (s.daiAccept .write).reject code := by
  simp [daiWrite, h, refused]

theorem writeRefusal_access
    (h : ((s.cfg.desc p).hwDigest = true ∧ s.cfg.isDigestAddress p a = true) ∨ s.isWritable p = false) :
    s.writeRefusal p a = some .access := by
  rcases h with ⟨digest, slot⟩ | locked
  · simp [State.writeRefusal, digest, slot]
  · simp [State.writeRefusal, locked]

theorem writeRefusal_backend (noDigest : ¬ ((s.cfg.desc p).hwDigest = true ∧ s.cfg.isDigestAddress p a = true))
    (writable : s.isWritable p = true) (readOnly : s.cfg.backendWritable = false) :
    s.writeRefusal p a = some .macroError := by
  simp [State.writeRefusal, noDigest, writable, readOnly]

/-- Settles O25: the target first, then the digest slot and the locks, then the backend. -/
theorem daiWriteChecksInOrder : Obligations.DaiWriteChecksInOrder := by
  intro s x enabled idle
  have ran := exec_daiWr (s := s) x (s.regwen_of_open enabled idle)
  refine ⟨fun noPart => ⟨_, ran, ?_⟩, fun p target => ⟨fun bad => ⟨_, ran, ?_⟩,
    fun notLc noDigest writable readOnly => ⟨_, ran, ?_⟩⟩⟩
  · rw [daiWrite_untargeted (State.daiTarget_none (.inl noPart))]
    exact reject_rejectedTo s .write (by simp) rfl
  · have rejected : daiWrite s = (s.daiAccept .write).reject .access := by
      by_cases lc : p = s.cfg.lcPart
      · exact daiWrite_untargeted (State.daiTarget_none (.inr (lc ▸ target)))
      · exact daiWrite_refused (State.daiTarget_of target lc) (writeRefusal_access (bad.resolve_left lc))
    rw [rejected]
    exact reject_rejectedTo s .write (by simp) rfl
  · rw [daiWrite_refused (State.daiTarget_of target notLc) (writeRefusal_backend noDigest writable readOnly)]
    exact reject_rejectedTo s .write (by simp) rfl

/-- Settles O26: an accepted write is a store of the DAI that then waits. -/
theorem daiWriteOrsBits : Obligations.DaiWriteOrsBits := by
  intro s x p a n enabled idle target notLc noDigest writable backend hd he range
  obtain ⟨rfl, rfl⟩ := Prod.mk.inj (range.trans (daiRange_eq s.cfg p s.dai.address.toNat).symm)
  obtain ⟨ors, blank⟩ := daiProgram_orsBits s p s.dai.address.toNat hd he
  refine ⟨_, exec_daiWr x (s.regwen_of_open enabled idle), ?_⟩
  rw [daiWrite_accepted target notLc (writeRefusal_none noDigest writable backend)]
  refine ⟨by simpa using ors, by simp, by simp, ?_, ?_, ?_⟩
  · simp only [State.updateOutputs_err, State.daiWait_err, daiStore_err_code (s := s.daiAccept .write) blank]
    split
    · rename_i clean
      exact congrArg (s.err.set s.cfg.nPart) (Eq.symm clean)
    · exact List.set_set _
  · exact daiStore_intrState_code (s := s.daiAccept .write) blank
  · exact ((((s.daiAccept_frame .write).append (State.daiStore_frame _ _ _ _)).append
      (State.daiWait_frame _ p _)).append (State.updateOutputs_frame s _)).mono (by simp)

/-! ### The digest command (spec/42_dai.md R215, R216) -/

theorem exec_daiDigest (x : BitVec 29) (opened : s.regwen = true) :
    exec (.daiDigest x) s = .next (State.updateOutputs s (daiDigest s)) :=
  congrArg (complete s) (daiGate_open daiDigest opened)

theorem daiDigest_untargeted (h : s.daiTarget s.dai.address.toNat = none) :
    daiDigest s = (s.daiAccept .digest).reject .access := by
  simp [daiDigest, h]

theorem daiDigest_refused (h : s.daiTarget s.dai.address.toNat = some p) {code : ErrCode}
    (refused : s.digestRefusal p = some code) : daiDigest s = (s.daiAccept .digest).reject code := by
  simp [daiDigest, h, refused]

theorem daiDigest_accepted (h : s.daiTarget s.dai.address.toNat = some p) (accepted : s.digestRefusal p = none) :
    daiDigest s = ((s.daiAccept .digest).updPart p fun q =>
      { q with nextDigest := s.cfg.partDigest s.image p (s.storedBytes p) }).daiWait p .digestWait := by
  simp [daiDigest, h, accepted]

theorem digestRefusal_access (h : (s.cfg.desc p).hwDigest = false ∨ s.isWritable p = false) :
    s.digestRefusal p = some .access := by
  rcases h with noDigest | locked
  · simp [State.digestRefusal, noDigest]
  · simp [State.digestRefusal, locked]

theorem digestRefusal_backend (digest : (s.cfg.desc p).hwDigest = true) (writable : s.isWritable p = true) :
    s.digestRefusal p = if s.cfg.backendWritable then none else some .macroError := by
  cases backend : s.cfg.backendWritable <;> simp [State.digestRefusal, digest, writable, backend]

/-- Settles O28: the checks in order, then the digest of the stored bytes, which neither storage nor a line shows. -/
theorem digestCommandComputes : Obligations.DigestCommandComputes := by
  intro s x enabled idle
  have ran := exec_daiDigest (s := s) x (s.regwen_of_open enabled idle)
  refine ⟨fun noPart => ⟨_, ran, ?_⟩, ?_⟩
  · rw [daiDigest_untargeted (State.daiTarget_none (.inl noPart))]
    exact reject_rejectedTo s .digest (by simp) rfl
  rintro p _ target rfl
  refine ⟨fun bad => ⟨_, ran, ?_⟩, fun notLc digest writable => ?_⟩
  · have rejected : daiDigest s = (s.daiAccept .digest).reject .access := by
      by_cases lc : p = s.cfg.lcPart
      · exact daiDigest_untargeted (State.daiTarget_none (.inr (lc ▸ target)))
      · exact daiDigest_refused (State.daiTarget_of target lc) (digestRefusal_access (bad.resolve_left lc))
    rw [rejected]
    exact reject_rejectedTo s .digest (by simp) rfl
  have found : s.daiTarget s.dai.address.toNat = some p := State.daiTarget_of target notLc
  have checked := digestRefusal_backend digest writable
  refine ⟨fun readOnly => ⟨_, ran, ?_⟩, fun backend => ?_⟩
  · rw [daiDigest_refused found (code := .macroError) (checked.trans (by simp [readOnly]))]
    exact reject_rejectedTo s .digest (by simp) rfl
  · have computed := daiDigest_accepted found (checked.trans (if_pos backend))
    refine ⟨_, (congrArg (complete s) ((daiGate_open daiDigest (s.regwen_of_open enabled idle)).trans computed)).trans
      (complete_same s _ rfl rfl rfl), rfl, by simp, by simp, by simp [Config.daiSlot], ?_⟩
    exact (((s.daiAccept_frame .digest).append (State.updPart_frame _ _ _)).append (State.daiWait_frame _ p _)).mono
      (by simp)

/-- Settles O30: the completion is a store of the DAI that then finishes. -/
theorem digestCommitOrsTheSlot : Obligations.DigestCommitOrsTheSlot := by
  intro s p owed waiting served hd he even
  have ors := program64_orsBits s.cfg s.image _ (s.part p).nextDigest even hd he
  have blank := program64_clears s.cfg s.image _ (s.part p).nextDigest even hd he
  refine ⟨_, exec_fireDaiDone owed, ?_⟩
  rw [show daiDone s = (s.daiFired.daiStore _ _ 8).daiFinish from daiDone_commits waiting served]
  refine ⟨by simpa using ors, ?_, ?_, daiStore_err_code (s := s.daiFired) blank, ?_, ?_⟩
  · simp [State.daiFired]
  · simp [State.daiFired]
  · exact (congrArg (· ||| doneBit) (daiStore_intrState_code (s := s.daiFired) blank)).trans (or_code_or_done _ _)
  · exact (((s.daiFired_frame.append (State.daiStore_frame _ _ _ _)).append (State.daiFinish_frame _)).append
      (State.updateOutputs_frame s _)).mono (by simp)

end Sys2Proof.Machine
end

section
/-! What was written reads back (spec/42_dai.md R226): an encoded granule that kept every set bit checks clean with the
written value, and a write, its completion and a read run one after the other. -/

namespace Sys2Proof

open Sys2Proof.Machine

variable {c : Config} {img j : Image} {a n : Nat} {v : DWord}

/-! ### Programmed granules check clean -/

/-- Where no set bit would be cleared, OR writes the value itself. -/
theorem or_eq_of_keeps {h w : Half} (keeps : h &&& ~~~w = 0#16) : h ||| w = w := by
  ext i hi
  have bit : h[i] = true → w[i] = true := by
    simpa [hi] using congrArg (fun x : Half => x.getLsbD i) keeps
  rw [BitVec.getElem_or]
  cases hh : h[i]
  · exact Bool.false_or _
  · rw [bit hh, Bool.true_or]

theorem keeps_of_clearsBit (keeps : clearsBit a n v img = false) {k : Nat} (hk : k < n / 2) :
    img.data.half (a + 2 * k) &&& ~~~v.extractLsb' (16 * k) 16 = 0#16 := by
  simp only [clearsBit, List.any_eq_false, List.mem_range, decide_eq_true_eq, not_not] at keeps
  exact keeps k hk

/-- A programmed granule checks clean, with or without ECC (spec/40_ecc.md R155, R160). -/
theorem eccCheck16_programmed (htri : TriangularMasks c.eccMasks) (ors : orsBits c a n v img j)
    (keeps : clearsBit a n v img = false) {k : Nat} (hk : k < n / 2) :
    c.eccCheck16 j (a + 2 * k) = (v.extractLsb' (16 * k) 16, .clean) := by
  obtain ⟨data, codes, -, -, -, enabled, -⟩ := ors
  have stored : j.data.half (a + 2 * k) = v.extractLsb' (16 * k) 16 :=
    (data k hk).trans (or_eq_of_keeps (keeps_of_clearsBit keeps hk))
  cases he : img.eccEnabled
  · simp [Config.eccCheck16, enabled, he, stored]
  · rw [Config.eccCheck16, if_pos (enabled.trans he), codes he k hk, verify22_codeword htri, stored]

/-- Word `w` of what was programmed, its halves side by side. -/
theorem eccCheck32_programmed (htri : TriangularMasks c.eccMasks) (ors : orsBits c a n v img j)
    (keeps : clearsBit a n v img = false) (w : Nat) (hw : 4 * w + 4 ≤ n) :
    c.eccCheck32 j (a + 4 * w) = (v.extractLsb' (32 * w) 32, .clean) := by
  have low := eccCheck16_programmed htri ors keeps (k := 2 * w) (by omega)
  have high := eccCheck16_programmed htri ors keeps (k := 2 * w + 1) (by omega)
  rw [show a + 2 * (2 * w) = a + 4 * w by omega, show 16 * (2 * w) = 32 * w by omega] at low
  rw [show a + 2 * (2 * w + 1) = a + 4 * w + 2 by omega, show 16 * (2 * w + 1) = 32 * w + 16 by omega] at high
  simp only [Config.eccCheck32, low, high]
  exact Prod.ext (BitVec.extractLsb'_append_extractLsb'_eq_extractLsb' rfl) rfl

theorem eccCheck64_programmed (htri : TriangularMasks c.eccMasks) (ors : orsBits c a 8 v img j)
    (keeps : clearsBit a 8 v img = false) : c.eccCheck64 j a = (v, .clean) := by
  have low : c.eccCheck32 j a = (v.extractLsb' 0 32, .clean) := eccCheck32_programmed htri ors keeps 0 (by omega)
  have high : c.eccCheck32 j (a + 4) = (v.extractLsb' 32 32, .clean) :=
    eccCheck32_programmed htri ors keeps 1 (by omega)
  simp only [Config.eccCheck64, low, high]
  exact Prod.ext (dword_halves v) rfl

/-- A DAI read of what was programmed at its address: the granule's 64 bits, or the low word. -/
theorem daiValue_programmed (htri : TriangularMasks c.eccMasks) {p b : Nat} {hi lo : Word}
    (range : (a, n) = if c.isWideGranule p b then (b / 8 * 8, 8) else (b / 4 * 4, 4))
    (ors : orsBits c a n (hi ++ lo) img j) (keeps : clearsBit a n (hi ++ lo) img = false) :
    c.daiValue j p b = ((if c.isWideGranule p b then hi else 0#32) ++ lo, .clean) := by
  rw [daiValue_eq]
  cases wide : c.isWideGranule p b <;> simp only [wide, Bool.false_eq_true, if_true, if_false] at range ⊢ <;>
    obtain ⟨rfl, rfl⟩ := Prod.mk.inj range
  · have word : c.eccCheck32 j (b / 4 * 4) = (lo, .clean) :=
      (eccCheck32_programmed htri ors keeps 0 (by omega)).trans (Prod.ext (append_low hi lo) rfl)
    rw [word]
  · exact eccCheck64_programmed htri ors keeps

end Sys2Proof

namespace Sys2Proof.Machine

variable {s t : State} {p a : Nat}

/-! ### A write, its completion and a read -/

theorem execAll_cons {i : Instr} (h : exec i s = .next t) (is : List Instr) : execAll (i :: is) s = execAll is t := by
  rw [execAll, h]

theorem State.isReadable_congr (cfg : t.cfg = s.cfg) (parts : t.parts = s.parts) (readEn : t.readEn = s.readEn) :
    t.isReadable p a = s.isReadable p a := by
  rw [State.isReadable, State.part, State.readEnAt, cfg, parts, readEn]
  rfl

/-- A clean read, with its completion where the partition is not buffered, gives the checked value and no error. -/
theorem execAll_read (y : BitVec 31) {v : DWord} (enabled : s.dai.regwenSw = true) (idle : s.dai.fsm = .idle)
    (free : .daiDone ∉ s.pending) (target : s.cfg.partitionOf s.dai.address.toNat = some p)
    (notLc : p ≠ s.cfg.lcPart) (readable : s.isReadable p s.dai.address.toNat = true)
    (value : s.cfg.daiValue s.image p s.dai.address.toNat = (v, .clean)) :
    ∃ t, execAll (.daiRd y :: if (s.cfg.desc p).buffered then [] else [.fireDaiDone]) s = .next t ∧
      t.dai.fsm = .idle ∧ t.dai.rdata0 = v.extractLsb' 0 32 ∧ t.dai.rdata1 = v.extractLsb' 32 32 ∧
      t.err = s.err.set s.cfg.nPart .noError ∧ t.pending = s.pending := by
  have checked := value.symm.trans (daiValue_eq _ _ _ _)
  cases buffered : (s.cfg.desc p).buffered
  · obtain ⟨t, u, ran, done, -, -, -, -, err, -, -, dai, pending, kept, -⟩ :=
      unbufferedReadCompletesOnDone s y p v .clean enabled idle free target notLc readable buffered checked
        (by simp)
    refine ⟨u, ?_, by rw [dai], by rw [dai], by rw [dai], kept.trans err, pending⟩
    rw [execAll_cons ran]
    exact execAll_cons done []
  · obtain ⟨t, ran, dai, err, -, frame⟩ :=
      bufferedReadCompletesAtOnce s y p v .clean enabled idle target notLc readable buffered checked (by simp)
    exact ⟨t, execAll_cons ran [], by rw [dai], by rw [dai], by rw [dai], err, frame .pending (by simp)⟩

/-- Settles O27: the write is stored, its completion leaves storage, and the read finds every granule encoded. -/
theorem writtenValueReadsBack : Obligations.WrittenValueReadsBack := by
  intro s x y p a n masks hd he errLength enabled idle free target notLc plain noDigest writable readable backend
    range keeps
  have wide : s.cfg.isWideGranule p s.dai.address.toNat = s.cfg.isDigestAddress p s.dai.address.toNat := by
    simp [Config.isWideGranule, plain]
  rw [← wide] at range ⊢
  obtain ⟨t, wrote, ors, dai, pending, err, -, frame⟩ := daiWriteOrsBits s x p a n enabled idle target notLc
    noDigest writable backend hd he range
  obtain ⟨u, done, dai', pending', -, frame'⟩ :=
    (daiDoneEndsTheCommand t (by simp [pending])).1 (.inr (by rw [dai]))
  have kept := frame.append frame'
  have cfg : u.cfg = s.cfg := kept .cfg (by simp)
  have settled : u.pending = s.pending := by
    rw [pending', pending, List.erase_append_right _ free]
    simp
  have image : u.image = t.image := frame' .image (by simp)
  have atRest : u.dai = { s.dai with fsm := .idle, part := none, pending := false } := by rw [dai', dai]
  have value := daiValue_programmed (triangularMasks_default masks) range ors keeps
  obtain ⟨r, ran, fsm, rdata0, rdata1, err', events⟩ := execAll_read (s := u) (p := p) y
    (by rw [atRest]; exact enabled) (by rw [atRest]) (by rw [settled]; exact free)
    (by rw [cfg, atRest]; exact target) (by rw [cfg]; exact notLc)
    (by rw [State.isReadable_congr cfg (kept .parts (by simp)) (kept .readEn (by simp)), atRest]; exact readable)
    (by rw [cfg, image, atRest]; exact value)
  refine ⟨r, ?_, fsm, ?_, ?_, ?_, by rw [events, settled]; exact free⟩
  · rw [cfg] at ran
    rw [List.cons_append, execAll_cons wrote, List.cons_append, execAll_cons done]
    exact ran
  · rw [rdata0]
    exact append_low _ _
  · rw [rdata1]
    exact BitVec.extractLsb'_append_eq_left
  · have inSlots : s.cfg.nPart < u.err.length := by
      rw [show u.err = t.err from frame' .err (by simp), err, List.length_set, errLength]
      simp [Config.nEntry]
    simp [State.errAt, err', cfg, inSlots]

end Sys2Proof.Machine
end

section
/-! Error and the failed flag are terminal (spec/42_dai.md R225, spec/43_lci.md R248, spec/60_exceptions.md R422): no
operation but RESET takes the DAI, the LCI or a partition out of Error, or clears a partition's failed flag. -/

namespace Sys2Proof.Machine

variable {s t u : State}

/-! ### The partitions -/

/-- From `q` to `r` a partition stays in Error and failed. -/
structure Part.KeepsFailure (q r : Part) : Prop where
  fsm : q.fsm = .error → r.fsm = .error
  failed : q.failed = true → r.failed = true

theorem Part.KeepsFailure.of_same {q r : Part} (fsm : r.fsm = q.fsm) (failed : r.failed = q.failed) :
    q.KeepsFailure r :=
  ⟨fsm.trans, failed.trans⟩

/-- From `s` to `t` every partition stays in Error and failed. -/
def State.KeepsFailures (s t : State) : Prop := ∀ p, (s.part p).KeepsFailure (t.part p)

namespace State.KeepsFailures

theorem of_parts (h : t.parts = s.parts) : s.KeepsFailures t := fun p => by
  rw [State.part, State.part, h]
  exact .of_same rfl rfl

theorem trans (h : s.KeepsFailures t) (h' : t.KeepsFailures u) : s.KeepsFailures u := fun p =>
  ⟨(h' p).fsm ∘ (h p).fsm, (h' p).failed ∘ (h p).failed⟩

/-- The relation looks at the partitions alone. -/
theorem of_start (h : u.KeepsFailures t) (parts : u.parts = s.parts) : s.KeepsFailures t :=
  (of_parts parts).trans h

theorem ite {c : Prop} [Decidable c] (h : s.KeepsFailures t) (h' : s.KeepsFailures u) :
    s.KeepsFailures (if c then t else u) := by
  split
  · exact h
  · exact h'

theorem updPart (h : s.KeepsFailures t) {p : Nat} {f : Part → Part} (hf : ∀ q : Part, q.KeepsFailure (f q)) :
    s.KeepsFailures (t.updPart p f) := by
  refine h.trans fun q => ?_
  rw [State.part_updPart]
  split
  · exact hf _
  · exact .of_same rfl rfl

/-- What an uncorrectable error and a failed check do, with their code recorded beside. -/
theorem of_fails {p : Nat} {f : Part → Part} (parts : t.parts = s.parts.modify p f)
    (hf : ∀ q, (f q).fsm = .error ∧ (f q).failed = true) : s.KeepsFailures t :=
  have fails : s.KeepsFailures (s.updPart p f) :=
    .updPart (.of_parts rfl) fun q => ⟨fun _ => (hf q).1, fun _ => (hf q).2⟩
  fails.trans (.of_parts parts)

end State.KeepsFailures

theorem daiDigest_keepsFailures (s : State) : s.KeepsFailures (daiDigest s) := by
  rcases daiDigest_cases s with e | e | ⟨p, -, -, -, e⟩ <;> rw [e]
  · exact .of_parts rfl
  · exact .of_parts rfl
  · exact State.KeepsFailures.updPart (t := s.daiAccept .digest) (.of_parts rfl) fun _ => .of_same rfl rfl

theorem daiCommand_keepsFailures (s : State) (v : Word) : s.KeepsFailures (daiCommand v s) := by
  unfold daiCommand
  split
  · exact .of_parts (daiRead_parts s)
  split
  · exact .of_parts (daiWrite_parts s)
  split
  · exact daiDigest_keepsFailures s
  · exact .of_parts rfl

theorem daiGate_keepsFailures {f : State → State} (h : s.KeepsFailures (f s)) : s.KeepsFailures (daiGate f s) := by
  unfold daiGate
  split
  · exact h
  · exact .of_parts rfl

theorem windowRead_keepsFailures (s : State) (a : Nat) : s.KeepsFailures (windowRead a s) := by
  unfold windowRead
  dsimp only
  split
  · exact .of_parts rfl
  · split
    · exact .of_fails rfl fun _ => ⟨rfl, rfl⟩
    · exact .of_parts rfl
    · exact .of_parts rfl

theorem updateSeedLocks_keepsFailures (s : State) : s.KeepsFailures s.updateSeedLocks := by
  unfold State.updateSeedLocks
  generalize s.cfg.seedParts = ps
  induction ps generalizing s with
  | nil => exact .of_parts rfl
  | cons p ps ih =>
    have locked : s.KeepsFailures (s.seedLock p) := .updPart (.of_parts rfl) fun _ => .of_same rfl rfl
    exact locked.trans (ih _)

theorem escalate_keepsFailures (s : State) : s.KeepsFailures s.escalate := by
  intro p
  simp only [State.part, State.escalate_parts, List.getD_eq_getElem?_getD, List.getElem?_map]
  cases s.parts[p]?
  · exact .of_same rfl rfl
  · exact ⟨fun _ => rfl, id⟩

theorem lcSignal_keepsFailures (s : State) (n : LcSignal) (b : Bool) : s.KeepsFailures (lcSignal n b s) := by
  cases n
  case debugEn | checkBypEn => exact .of_parts rfl
  case seedReadEn | seedWriteEn => exact .of_start (updateSeedLocks_keepsFailures _) rfl
  case escalateEn =>
    unfold lcSignal
    dsimp only
    split
    · exact .of_start (escalate_keepsFailures _) rfl
    · exact .of_parts rfl

/-! ### Power-up (spec/44_powerup.md R261 to R263) -/

theorem eccGranule_keepsFailures (p g : Nat) (w : Pass) : w.state.KeepsFailures (eccGranule p w g).state := by
  unfold eccGranule
  dsimp only
  split
  · split
    · exact .of_parts rfl
    · exact .of_parts rfl
    · exact .of_fails rfl fun _ => ⟨rfl, rfl⟩
  · exact .of_parts rfl

theorem eccPass_keepsFailures (p : Nat) (s : State) : s.KeepsFailures (eccPass p s).state := by
  unfold eccPass
  generalize (s.cfg.desc p).granules = gs
  suffices ∀ w : Pass, w.state.KeepsFailures (gs.foldl (eccGranule p) w).state from this ⟨s, [], true⟩
  induction gs with
  | nil => exact fun w => .of_parts rfl
  | cons g gs ih => exact fun w => (eccGranule_keepsFailures p g w).trans (ih _)

theorem verifyBuffered_keepsFailures (p : Nat) (s : State) : s.KeepsFailures (s.verifyBuffered p) := by
  unfold State.verifyBuffered
  split
  · exact .of_parts rfl
  · split
    · exact .updPart (.of_parts rfl) fun _ => .of_same rfl rfl
    · exact .of_fails rfl fun _ => ⟨rfl, rfl⟩

/-- A loaded partition becomes Idle only where it is not in Error (spec/44_powerup.md R262). -/
theorem loadPartition_keepsFailures (p : Nat) (wc : List Byte) (s : State) :
    s.KeepsFailures (s.loadPartition p wc) := by
  unfold State.loadPartition
  extract_lets d s1 s2 t' s3
  have h1 : s.KeepsFailures s1 := .ite (.updPart (.of_parts rfl) fun _ => .of_same rfl rfl) (.of_parts rfl)
  have h2 : s.KeepsFailures s2 := .ite (h1.updPart fun _ => .of_same rfl rfl) h1
  have ht : s.KeepsFailures t' := h2.updPart fun _ => .of_same rfl rfl
  have h3 : s.KeepsFailures s3 := .ite (.ite (ht.trans (verifyBuffered_keepsFailures p t')) ht)
    (.ite (h2.updPart fun _ => .of_same rfl rfl) h2)
  refine h3.updPart fun q => ?_
  split
  · exact .of_same rfl rfl
  · rename_i working
    exact ⟨fun failed => absurd failed working, id⟩

theorem powerupPartition_keepsFailures (p : Nat) (s : State) : s.KeepsFailures (powerupPartition p s).1 := by
  unfold powerupPartition
  dsimp only
  split
  · exact (eccPass_keepsFailures p s).trans (loadPartition_keepsFailures p _ _)
  · exact eccPass_keepsFailures p s

theorem powerup_keepsFailures (s : State) : s.KeepsFailures (powerup s) := by
  obtain ⟨parts, -, -⟩ := powerup_of_parts s
  have kept : s.KeepsFailures (powerupParts (s.mapDai fun d => { d with fsm := .init })).1 :=
    powerupParts_induct (P := s.KeepsFailures) _ (.of_parts rfl) fun u p _ hu =>
      hu.trans (powerupPartition_keepsFailures p u)
  exact kept.trans (.of_parts parts)

/-! ### Every operation -/

theorem after_keepsFailures (s : State) (i : Instr) (hi : i ≠ .reset) : s.KeepsFailures (after s i) := by
  cases i
  case reset => exact absurd rfl hi
  case daiRd => exact daiGate_keepsFailures (.of_parts (daiRead_parts s))
  case daiWr => exact daiGate_keepsFailures (.of_parts (daiWrite_parts s))
  case daiDigest => exact daiGate_keepsFailures (daiDigest_keepsFailures s)
  case wrDaiCmd v => exact daiGate_keepsFailures (daiCommand_keepsFailures s v)
  case wrd => exact windowRead_keepsFailures s _
  case lcsig n b => exact lcSignal_keepsFailures s n b
  case pwrup =>
    simp only [after]
    split
    · exact powerup_keepsFailures s
    · exact .of_parts rfl
  case lcprog | getkey | entropy | fireDaiDone | fireLciWordDone => exact .of_parts (by simp [after])
  case wrDaiRegwen | wrDaiAddress | wrDaiWdata0 | wrDaiWdata1 | wrReadLock =>
    simp only [after]
    (repeat' split) <;> exact .of_parts rfl
  all_goals exact .of_parts rfl

/-- A signal leaves both engines alone, or escalates (spec/60_exceptions.md R425). -/
theorem lcSignal_engines (s : State) (n : LcSignal) (b : Bool) :
    ((lcSignal n b s).dai = s.dai ∧ (lcSignal n b s).lci = s.lci) ∨
      ((lcSignal n b s).dai.fsm = .error ∧ (lcSignal n b s).lci.fsm = .error) := by
  cases n
  case debugEn | checkBypEn => exact .inl ⟨rfl, rfl⟩
  case seedReadEn | seedWriteEn => exact .inl ⟨by simp [lcSignal], by simp [lcSignal]⟩
  case escalateEn =>
    unfold lcSignal
    dsimp only
    split
    · exact .inr ⟨by simp, by simp⟩
    · exact .inl ⟨rfl, rfl⟩

/-- A failed DAI accepts nothing, and only RESET moves it (spec/42_dai.md R225). -/
theorem after_dai_failed (s : State) (i : Instr) (hi : i ≠ .reset) (failed : s.dai.fsm = .error) :
    (after s i).dai.fsm = .error := by
  have closed : ¬ s.regwen = true := by simp [State.regwen, failed]
  have kept {t : State} (h : t.dai = s.dai) : t.dai.fsm = .error := by rw [h, failed]
  cases i
  case reset => exact absurd rfl hi
  case daiRd | daiWr | daiDigest | wrDaiCmd => exact kept (congrArg State.dai (daiGate_closed _ closed))
  case wrDaiAddress | wrDaiWdata0 | wrDaiWdata1 | wrReadLock => exact kept (congrArg State.dai (if_neg closed))
  case wrDaiRegwen =>
    simp only [after]
    split <;> exact failed
  case lcsig n b =>
    rcases lcSignal_engines s n b with ⟨same, -⟩ | ⟨fsm, -⟩
    · exact kept same
    · exact fsm
  case pwrup => exact kept (congrArg State.dai (if_neg (by simp [failed])))
  case fireDaiDone => exact (daiDone_dai s).2.trans (if_pos failed)
  case wrd | lcprog | getkey | entropy | fireLciWordDone => exact kept (by simp [after])
  all_goals exact failed

/-- A failed LCI only acknowledges (spec/43_lci.md R248); power-up finds both engines in Reset. -/
theorem after_lci_failed {i : Instr} (h : s.EngineInv) (hi : i ≠ .reset) (failed : s.lci.fsm = .error) :
    (after s i).lci.fsm = .error := by
  have kept {t : State} (h : t.lci = s.lci) : t.lci.fsm = .error := by rw [h, failed]
  cases i
  case reset => exact absurd rfl hi
  case daiRd | daiWr | daiDigest => exact kept (daiGate_keeps s State.lci _ (by simp))
  case wrDaiCmd v =>
    exact kept (daiGate_keeps s State.lci _ (daiCommand_keeps s State.lci v (by simp) (by simp) (by simp)))
  case wrDaiRegwen | wrDaiAddress | wrDaiWdata0 | wrDaiWdata1 | wrReadLock =>
    simp only [after]
    (repeat' split) <;> exact failed
  case lcsig n b =>
    rcases lcSignal_engines s n b with ⟨-, same⟩ | ⟨-, fsm⟩
    · exact kept same
    · exact fsm
  case pwrup =>
    have started : s.dai.fsm ≠ .reset := fun fresh => by simp [h.together.mp fresh] at failed
    exact kept (congrArg State.lci (if_neg started))
  case lcprog => simp [after, lcprogAfter, failed]
  case fireLciWordDone =>
    rcases lciWordDone_cases s with ⟨-, fsm, -⟩ | ⟨working, -⟩ | ⟨working, -⟩
    · exact fsm
    · exact absurd failed working
    · exact absurd failed working
  case wrd | getkey | entropy | fireDaiDone => exact kept (by simp [after])
  all_goals exact failed

/-- Settles O56: engine by engine, and partition by partition. -/
theorem errorIsTerminal : Obligations.ErrorIsTerminal := by
  intro i s t inv hexec notReset
  obtain ⟨-, rfl⟩ := exec_next i s t hexec
  refine ⟨after_dai_failed s i notReset, after_lci_failed inv notReset, fun p => ?_⟩
  obtain ⟨fsm, failed⟩ := after_keepsFailures s i notReset p
  exact ⟨fsm, failed⟩

end Sys2Proof.Machine
end

section
/-! The life-cycle codec (spec/43_lci.md R240 to R242): where the two patterns stand in an encoding, that decoding reads
no more than the two regions, and that a complete table without repetition is inverted by its search. -/

namespace Sys2Proof

variable {c : Config} {st cnt : Nat}

/-! ### The layout (spec/43_lci.md R240, R241) -/

/-- What `lcCodecOk` says of the two regions and of the two tables. -/
structure Config.LcLayout (c : Config) : Prop where
  stateEven : c.lcStateOffset % 2 = 0
  cntEven : c.lcCntOffset % 2 = 0
  stateInside : c.lcStateOffset + 2 * c.lcStateWords ≤ (c.desc c.lcPart).byteSize
  cntInside : c.lcCntOffset + 2 * c.lcCntWords ≤ (c.desc c.lcPart).byteSize
  apart : c.lcStateOffset + 2 * c.lcStateWords ≤ c.lcCntOffset ∨ c.lcCntOffset + 2 * c.lcCntWords ≤ c.lcStateOffset
  stateTable : c.lcStateCodec.length = c.lcStates.programmable.length
  cntTable : c.lcCntCodec.length = c.lcCntMax + 1
  stateWidth : ∀ w ∈ c.lcStateCodec, w.length = c.lcStateWords
  cntWidth : ∀ w ∈ c.lcCntCodec, w.length = c.lcCntWords
  stateInjective : c.lcStateCodec.Nodup
  cntInjective : c.lcCntCodec.Nodup

theorem Config.LcLayout.of_codecOk (h : c.lcCodecOk = true) : c.LcLayout := by
  simp only [Config.lcCodecOk, Bool.and_eq_true, Bool.or_eq_true, decide_eq_true_eq, List.all_eq_true] at h
  obtain ⟨⟨⟨⟨⟨⟨⟨⟨⟨⟨⟨stateEven, cntEven⟩, stateInside⟩, cntInside⟩, apart⟩, stateTable⟩, -⟩, cntTable⟩, stateWidth⟩,
    cntWidth⟩, stateInjective⟩, cntInjective⟩ := h
  exact { stateEven, cntEven, stateInside, cntInside, apart, stateTable, cntTable, stateWidth, cntWidth,
          stateInjective, cntInjective }

theorem Config.LcLayout.state_lt (h : c.LcLayout) (programmable : c.lcProgrammable st = true) :
    st < c.lcStateCodec.length := by
  simp only [Config.lcProgrammable, Bool.and_eq_true, decide_eq_true_eq] at programmable
  exact h.stateTable ▸ programmable.2

theorem Config.LcLayout.cnt_lt (h : c.LcLayout) (counted : cnt ≤ c.lcCntMax) : cnt < c.lcCntCodec.length := by
  rw [h.cntTable]
  omega

/-! ### The regions of an encoding (spec/43_lci.md R241) -/

@[simp] theorem lcEncode_length (c : Config) (st cnt : Nat) : (c.lcEncode st cnt).length = c.lcWords := by
  simp [Config.lcEncode]

theorem lcEncodeWord_state (even : c.lcStateOffset % 2 = 0) {i : Nat} (hi : i < c.lcStateWords) :
    c.lcEncodeWord st cnt (c.lcStateOffset / 2 + i) = (c.lcStateCodec.getD st []).getD i 0#16 := by
  rw [Config.lcEncodeWord, if_pos (by omega), show (2 * (c.lcStateOffset / 2 + i) - c.lcStateOffset) / 2 = i by omega]

/-- The regions do not overlap, so that the state region leaves the count's words alone. -/
theorem Config.LcLayout.lcEncodeWord_cnt (h : c.LcLayout) {i : Nat} (hi : i < c.lcCntWords) :
    c.lcEncodeWord st cnt (c.lcCntOffset / 2 + i) = (c.lcCntCodec.getD cnt []).getD i 0#16 := by
  have even := h.cntEven
  have outside : ¬ (c.lcStateOffset ≤ 2 * (c.lcCntOffset / 2 + i) ∧
      2 * (c.lcCntOffset / 2 + i) < c.lcStateOffset + 2 * c.lcStateWords) := by
    rcases h.apart with before | after <;> omega
  rw [Config.lcEncodeWord, if_neg outside, if_pos (by omega),
    show (2 * (c.lcCntOffset / 2 + i) - c.lcCntOffset) / 2 = i by omega]

/-- A window of a tabulated list is the list its entries spell. -/
theorem take_drop_map_range {α : Type} {f : Nat → α} {n k : Nat} {l : List α} (d : α) (inside : k + l.length ≤ n)
    (spelled : ∀ i, i < l.length → f (k + i) = l.getD i d) :
    (((List.range n).map f).drop k).take l.length = l := by
  apply List.ext_getElem
  · simp
    omega
  · intro i _ hi
    simpa [hi] using spelled i hi

theorem Config.LcLayout.lcStateRegion_lcEncode (h : c.LcLayout) (hst : st < c.lcStateCodec.length) :
    c.lcStateRegion (c.lcEncode st cnt) = c.lcStateCodec[st] := by
  have width := h.stateWidth _ (List.getElem_mem hst)
  have inside := h.stateInside
  rw [Config.lcStateRegion, ← width]
  refine take_drop_map_range 0#16 ?_ fun i hi => ?_
  · rw [width, Config.lcWords]
    omega
  · rw [lcEncodeWord_state h.stateEven (width ▸ hi), List.getD_eq_getElem _ _ hst]

theorem Config.LcLayout.lcCntRegion_lcEncode (h : c.LcLayout) (hcnt : cnt < c.lcCntCodec.length) :
    c.lcCntRegion (c.lcEncode st cnt) = c.lcCntCodec[cnt] := by
  have width := h.cntWidth _ (List.getElem_mem hcnt)
  have inside := h.cntInside
  rw [Config.lcCntRegion, ← width]
  refine take_drop_map_range 0#16 ?_ fun i hi => ?_
  · rw [width, Config.lcWords]
    omega
  · rw [h.lcEncodeWord_cnt (width ▸ hi), List.getD_eq_getElem _ _ hcnt]

/-! ### Decoding (spec/43_lci.md R242) -/

/-- Decoding reads the two regions alone. -/
theorem lcDecode_congr {w v : List Half} (state : c.lcStateRegion w = c.lcStateRegion v)
    (count : c.lcCntRegion w = c.lcCntRegion v) : c.lcDecode w = c.lcDecode v := by
  rw [Config.lcDecode, state, count]
  rfl

/-- Law L1: the search of an injective table finds the index of an entry. -/
theorem findIdx?_entry {α : Type} [DecidableEq α] {l : List α} (injective : l.Nodup) {i : Nat} (hi : i < l.length) :
    (l.findIdx? fun e => decide (e = l[i])) = some i := by
  refine List.findIdx?_eq_some_iff_getElem.mpr ⟨hi, by simp, fun j hj => ?_⟩
  simp only [decide_eq_true_eq, injective.getElem_inj_iff]
  omega

/-- Settles O37: each region of an encoding is a table entry, which the search finds at its index. -/
theorem lifeCycleCodecRoundTrip : Obligations.LifeCycleCodecRoundTrip := by
  intro c st cnt codec programmable counted
  have layout := Config.LcLayout.of_codecOk codec
  have hst := layout.state_lt programmable
  have hcnt := layout.cnt_lt counted
  rw [Config.lcDecode, layout.lcStateRegion_lcEncode hst, layout.lcCntRegion_lcEncode hcnt,
    findIdx?_entry layout.stateInjective hst, findIdx?_entry layout.cntInjective hcnt]
  rfl

end Sys2Proof
end

section
/-! What the LCI leaves (spec/43_lci.md R243 to R247): one programmed word, the end of a request, and the acknowledgement
of a failed one. -/

namespace Sys2Proof.Machine

variable {s t : State} {a k : Nat} {v : Half} {cb : CallbackId}

/-! ### One word (spec/43_lci.md R244) -/

theorem State.lciProgram_code :
    s.lciProgram.2 = s.wordCode (s.cfg.lcAddress s.lci.cursor) (s.lci.buf.getD s.lci.cursor 0#16) := by
  unfold State.lciProgram State.wordCode
  split
  · exact congrArg (if · = true then ErrCode.writeBlank else .noError) (program16_clears _ _ _ _)
  · rfl

theorem State.lciWriteWord_lci : s.lciWriteWord.lci = { s.lci with
    fsm := .writeWait
    err := firstError s.lci.err (s.wordCode (s.cfg.lcAddress s.lci.cursor) (s.lci.buf.getD s.lci.cursor 0#16)) } := by
  simp [State.lciWriteWord, State.lciProgram_code, Lci.accumulate_err]

theorem State.lciWriteWord_wordStored (hd : s.image.data.wf = true) (he : s.image.ecc.wf = true) :
    s.wordStored (s.cfg.lcAddress s.lci.cursor) (s.lci.buf.getD s.lci.cursor 0#16) s.lciWriteWord := by
  unfold State.wordStored
  rw [State.lciWriteWord_image]
  split
  · exact program16_orsBits _ _ _ _ hd he
  · rfl

theorem State.lciWriteWord_frame (s : State) : s.frame [.image, .lci, .pending] s.lciWriteWord := by
  intro f out
  cases f <;> simp [State.agree] at out ⊢

theorem State.lciStart_frame (s : State) (st cnt : Nat) (cb : CallbackId) :
    s.frame [.image, .lci, .err, .pending] (s.lciStart st cnt cb) := by
  intro f out
  cases f <;> simp [State.agree] at out ⊢

theorem State.answer_frame (s : State) (r : Answer) : s.frame [.answers] (s.answer r) := by
  intro f out
  cases f <;> simp [State.agree] at out ⊢

/-! ### A request (spec/43_lci.md R243) -/

/-- No answer to a request moves an interrupt or an alert. -/
theorem exec_lcprog {st cnt : Nat} (programmable : s.cfg.lcProgrammable st = true) (counted : cnt ≤ s.cfg.lcCntMax)
    (cb : CallbackId) : exec (.lcprog st cnt cb) s = .next (lcprogAfter st cnt cb s) :=
  (exec_admitted (.lcprog st cnt cb) s (decide_eq_true ⟨programmable, counted⟩)).trans
    (complete_same s _ (lcprogAfter_intrState ..) (lcprogAfter_intrEnable ..) (lcprogAfter_alertLatch ..))

/-- Settles O32: the state of the LCI selects the answer, and an idle one programs word 0 of the encoding. -/
theorem lcprogAnswers : Obligations.LcprogAnswers := by
  intro s st cnt cb programmable counted
  rw [exec_lcprog programmable counted cb]
  refine ⟨fun busy => ?_, fun failed => ?_, fun idle hd he => ⟨_, rfl, ?_⟩⟩
  · rcases busy with fsm | fsm | fsm <;> simp only [lcprogAfter, fsm]
  · simp only [lcprogAfter, failed]
    rfl
  · simp only [lcprogAfter, idle]
    refine ⟨State.lciWriteWord_wordStored (s := (s.setErr s.cfg.lcSlot .noError).mapLci fun _ => _) hd he,
      State.lciWriteWord_lci, ?_, ?_, ?_, ?_⟩
    · simp [State.lciStart, Config.lcSlot]
    · simp [State.lciStart]
    · simp
    · exact ((s.lciStart_frame st cnt cb).append (State.answer_frame _ _)).mono (by simp)

/-! ### A completion (spec/43_lci.md R245) -/

/-- The completion taken off the pending events and the cursor moved on to a next word. -/
def State.lciAdvanced (s : State) : State :=
  (s.unschedule .lciWordDone).mapLci fun l => { l with cursor := l.cursor + 1, fsm := .write }

/-- The completion taken off the pending events and the cursor moved past the last word. -/
def State.lciPassed (s : State) : State :=
  (s.unschedule .lciWordDone).mapLci fun l => { l with cursor := l.cursor + 1 }

theorem State.lciAdvanced_frame (s : State) : s.frame [.lci, .pending] s.lciAdvanced := by
  intro f out
  cases f <;> simp [State.agree, State.lciAdvanced] at out ⊢

theorem State.lciPassed_frame (s : State) : s.frame [.lci, .pending] s.lciPassed := by
  intro f out
  cases f <;> simp [State.agree, State.lciPassed] at out ⊢

theorem State.unschedule_frame (s : State) (e : Event) : s.frame [.pending] (s.unschedule e) := by
  intro f out
  cases f <;> simp [State.agree] at out ⊢

theorem lciWordDone_next (working : s.lci.fsm ≠ .error) (more : s.lci.cursor + 1 < s.cfg.lcWords) :
    lciWordDone s = s.lciAdvanced.lciWriteWord :=
  (if_neg working).trans (if_pos more)

theorem lciWordDone_last (working : s.lci.fsm ≠ .error) (last : s.cfg.lcWords ≤ s.lci.cursor + 1) :
    lciWordDone s = s.lciPassed.lciFinish :=
  (if_neg working).trans (if_neg (Nat.not_lt.mpr last))

theorem lciWordDone_failed (failed : s.lci.fsm = .error) :
    lciWordDone s = (s.unschedule .lciWordDone).persistLci.lciAck false := if_pos failed

theorem exec_fireLciWordDone (owed : .lciWordDone ∈ s.pending) :
    exec .fireLciWordDone s = .next (State.updateOutputs s (lciWordDone s)) := if_pos owed

/-- Settles O33: the completion programs the word at the moved cursor. -/
theorem lciWordDoneProgramsNext : Obligations.LciWordDoneProgramsNext := by
  rintro s _ _ owed working more hd he rfl rfl
  refine ⟨s.lciAdvanced.lciWriteWord, ?_, State.lciWriteWord_wordStored (s := s.lciAdvanced) hd he,
    State.lciWriteWord_lci, by simp [State.lciAdvanced], ?_⟩
  · have ran := exec_fireLciWordDone owed
    rw [lciWordDone_next working more] at ran
    exact ran.trans (complete_same s _ (by simp [State.lciAdvanced]) (by simp [State.lciAdvanced])
      (by simp [State.lciAdvanced]))
  · exact (s.lciAdvanced_frame.append (State.lciWriteWord_frame _)).mono (by simp)

/-! ### The end of a request (spec/43_lci.md R245, R246) -/

/-- The code a life-cycle write-back adds, as the statements write it. -/
theorem State.persistCode (s : State) : (if s.persistOk then ErrCode.noError else .macroError) =
    if s.backing.isSome && !Config.persistOk s.draws then .macroError else .noError := by
  unfold State.persistOk
  cases s.backing <;> cases Config.persistOk s.draws <;> rfl

theorem State.persistLci_lci_err : s.persistLci.lci.err = firstError s.lci.err
    (if s.backing.isSome && !Config.persistOk s.draws then .macroError else .noError) := by
  rw [State.persistLci_lci, State.persistCode]

theorem State.persistLci_frame (s : State) : s.frame [.lci, .backing, .draws] s.persistLci := by
  intro f out
  cases f <;> simp [State.agree] at out ⊢

theorem State.persistLci_draws : s.persistLci.draws = (s.persist (s.cfg.lcAddress 0) s.lciChanged).draws := by
  unfold State.persistLci
  dsimp only
  split <;> rfl

theorem State.persistLci_writesBack (s : State) : s.writesBack (s.cfg.lcAddress 0) s.lciChanged s.persistLci :=
  State.writesBack_of s s _ _ _ _ (s.persist_writesBack _ _) rfl rfl persistLci_backing State.persistLci_draws
    (by simp)

theorem State.lciAck_frame (s : State) (ok : Bool) : s.frame [.lci, .outputs] (s.lciAck ok) := by
  intro f out
  cases f <;> simp [State.agree] at out ⊢

theorem State.lciFinish_frame (s : State) :
    s.frame [.lci, .err, .intrState, .alertLatch, .outputs, .backing, .draws] s.lciFinish := by
  intro f out
  cases f <;> simp [State.agree] at out ⊢

theorem State.lciFinish_draws : s.lciFinish.draws = s.persistLci.draws := by
  unfold State.lciFinish
  dsimp only
  split <;> simp

theorem State.lciFinish_lci :
    s.lciFinish.lci = { s.lci with fsm := .idle, err := s.persistLci.lci.err, cb := none } := by
  unfold State.lciFinish
  dsimp only
  split <;> simp [State.persistLci_lci]

theorem State.lciFinish_err : s.lciFinish.err =
    if s.persistLci.lci.err = .noError then s.err else s.err.set s.cfg.lcPart s.persistLci.lci.err := by
  unfold State.lciFinish
  dsimp only
  split <;> simp [Config.lcSlot]

theorem State.lciFinish_intrState : s.lciFinish.intrState = s.intrState ||| interruptOf s.persistLci.lci.err := by
  unfold State.lciFinish
  dsimp only
  split
  · rename_i clean
    simp [clean, interruptOf]
  · simp

theorem State.lciFinish_alertLatch : s.lciFinish.alertLatch = s.alertLatch ||| alertOf s.persistLci.lci.err := by
  unfold State.lciFinish
  dsimp only
  split
  · rename_i clean
    simp [clean, alertOf]
  · simp

theorem State.lciFinish_outputs (held : s.lci.cb = some cb) :
    s.lciFinish.outputs = s.outputs ++ [.lcAck cb (decide (s.persistLci.lci.err = .noError))] := by
  unfold State.lciFinish
  dsimp only
  split <;> rw [State.lciAck_outputs (cb := cb) _ _ (by simp [State.persistLci_lci, held])] <;> simp

/-- After the last word the request has programmed the whole partition. -/
theorem State.lciPassed_lciChanged (last : s.cfg.lcWords ≤ s.lci.cursor + 1) :
    s.lciPassed.lciChanged = if s.cfg.backendWritable then 2 * s.cfg.lcWords else 0 := by
  have all : min (s.lci.cursor + 1 + 1) s.cfg.lcWords = s.cfg.lcWords := by omega
  simp [State.lciPassed, State.lciChanged, all]

/-- Settles O34: a working LCI finishes the request past its last word, a failed one only persists and acknowledges. -/
theorem lciLastWordAcknowledges : Obligations.LciLastWordAcknowledges := by
  rintro s cb _ owed held rfl
  refine ⟨fun working last => ?_, fun failed => ?_⟩
  · have code : s.lciPassed.persistLci.lci.err = _ := State.persistLci_lci_err
    have back := s.lciPassed.persistLci_writesBack
    rw [State.lciPassed_lciChanged last] at back
    refine ⟨_, outputChanges s s.lciPassed.lciFinish,
      by rw [exec_fireLciWordDone owed, lciWordDone_last working last], ?_, ?_, ?_, ?_, ?_, ?_,
      outputChanges_plain _ _, ?_, ?_⟩
    · exact State.lciFinish_lci.trans (by rw [code]; rfl)
    · exact State.lciFinish_err.trans (by rw [code]; rfl)
    · exact State.lciFinish_intrState.trans (by rw [code]; rfl)
    · exact State.lciFinish_alertLatch.trans (by rw [code]; rfl)
    · simp [State.lciPassed]
    · rw [State.updateOutputs_outputs, State.lciFinish_outputs (cb := cb) (by simp [State.lciPassed, held]), code]
      simp [State.lciPassed]
    · exact State.writesBack_of s s.lciPassed _ _ _ _ back rfl rfl (lciFinish_backing _) State.lciFinish_draws
        (by simp)
    · exact ((s.lciPassed_frame.append (State.lciFinish_frame _)).append (State.updateOutputs_frame s _)).mono
        (by simp)
  · have ran := exec_fireLciWordDone owed
    rw [lciWordDone_failed failed] at ran
    refine ⟨_, ran.trans (complete_same s _ (by simp) (by simp) (by simp)), ?_, by simp, ?_, ?_, ?_⟩
    · rw [State.lciAck_lci, State.persistLci_lci, State.persistCode]
      rfl
    · rw [State.lciAck_outputs _ false cb (by simp [State.persistLci_lci, held])]
      simp
    · exact State.writesBack_of s (s.unschedule .lciWordDone) _ _ _ _ (State.persistLci_writesBack _) rfl rfl
        (by simp) (by simp) (by simp)
    · exact (((s.unschedule_frame .lciWordDone).append (State.persistLci_frame _)).append
        (State.lciAck_frame _ false)).mono (by simp)

/-- Settles O35: the acknowledgement moves no interrupt and no alert. -/
theorem lciFailAcknowledges : Obligations.LciFailAcknowledges := fun s cb owed =>
  (if_pos owed).trans (complete_same s ((s.unschedule (.lciFail cb)).emit (.lcAck cb false)) rfl rfl rfl)

end Sys2Proof.Machine
end

section
/-! The round trip of life-cycle programming (spec/43_lci.md R249): word after word the request ORs its encoding onto the
partition, so that zero regions hold its two patterns in the end. -/

namespace Sys2Proof

/-! ### OR onto zero words (spec/20_memory.md R69) -/

/-- The words of a request ORed onto the stored ones. -/
def orWords (old new : List Half) : List Half := List.zipWith (· ||| ·) old new

/-- OR onto zero words leaves the words themselves. -/
theorem orWords_of_zero {old new : List Half} (sameLength : old.length = new.length) (zero : ∀ h ∈ old, h = 0#16) :
    orWords old new = new := by
  refine List.ext_getElem (by simp [orWords, sameLength]) fun i _ hi => ?_
  simp [orWords, zero _ (List.getElem_mem (sameLength ▸ hi))]

theorem orWords_take_drop (old new : List Half) (k n : Nat) :
    ((orWords old new).drop k).take n = orWords ((old.drop k).take n) ((new.drop k).take n) := by
  rw [orWords, List.drop_zipWith, List.take_zipWith]
  rfl

/-- A pattern ORed onto a partition whose two regions are zero decodes as the pattern. -/
theorem lcDecode_orWords (c : Config) {old new : List Half} (sameLength : old.length = new.length)
    (state : ∀ h ∈ c.lcStateRegion old, h = 0#16) (count : ∀ h ∈ c.lcCntRegion old, h = 0#16) :
    c.lcDecode (orWords old new) = c.lcDecode new := by
  refine lcDecode_congr ?_ ?_
  · exact (orWords_take_drop ..).trans (orWords_of_zero (by simp [sameLength]) state)
  · exact (orWords_take_drop ..).trans (orWords_of_zero (by simp [sameLength]) count)

theorem half_of_orsBits {c : Config} {a : Nat} {v : Half} {i j : Image}
    (ors : Machine.orsBits c a 2 (v.setWidth 64) i j) : j.data.half a = i.data.half a ||| v := by
  have word := ors.1 0 (by omega)
  rwa [BitVec.extractLsb'_setWidth_of_le (by omega),
    BitVec.extractLsb'_eq_self] at word

end Sys2Proof

namespace Sys2Proof.Machine

variable {s t u : State} {a k w st cnt : Nat} {v : Half} {cb : CallbackId}

@[simp] theorem State.lcStored_length (s : State) : s.lcStored.length = s.cfg.lcWords := by
  simp [State.lcStored]

@[simp] theorem State.lcStored_getElem (hw : w < s.lcStored.length) :
    s.lcStored[w] = s.image.data.half (s.cfg.lcAddress w) := by
  simp [State.lcStored]

theorem State.half_of_blank (blank : ∀ h ∈ s.lcStored, h = 0#16) (hw : w < s.cfg.lcWords) :
    s.image.data.half (s.cfg.lcAddress w) = 0#16 :=
  blank _ (List.mem_map_of_mem (List.mem_range.mpr hw))

/-! ### One word of the request -/

/-- Storage stays canonical whatever the operation. -/
theorem after_image_wf (i : Instr) (hd : s.image.data.wf = true) (he : s.image.ecc.wf = true) :
    (after s i).image.data.wf = true ∧ (after s i).image.ecc.wf = true := by
  rcases after_image s i with same | ⟨-, -, p, -, -, -, written⟩ | ⟨-, -, p, -, committed⟩ |
    ⟨-, -, k, v, -, programmed⟩
  · exact same ▸ ⟨hd, he⟩
  · rw [written, State.daiProgram]
    split
    · exact program64_wf _ _ _ _ hd he
    · exact program32_wf _ _ _ _ hd he
  · exact committed ▸ program64_wf _ _ _ _ hd he
  · exact programmed ▸ program16_wf _ _ _ _ hd he

theorem exec_image_wf {i : Instr} (ran : exec i s = .next t) (hd : s.image.data.wf = true)
    (he : s.image.ecc.wf = true) : t.image.data.wf = true ∧ t.image.ecc.wf = true := by
  obtain ⟨-, rfl⟩ := exec_next i s t ran
  exact after_image_wf i hd he

/-- A programmed word takes the bits, and the other words of the partition stay. -/
theorem State.wordStored.half (stored : s.wordStored (s.cfg.lcAddress k) v t) (backend : s.cfg.backendWritable = true)
    (w : Nat) : t.image.data.half (s.cfg.lcAddress w) =
      if w = k then s.image.data.half (s.cfg.lcAddress w) ||| v else s.image.data.half (s.cfg.lcAddress w) := by
  rw [State.wordStored, if_pos backend] at stored
  split
  · rename_i same
    exact same ▸ half_of_orsBits stored
  · refine half_sameOutside stored.2.2.2 _ ?_
    simp only [Config.lcAddress]
    omega

/-- A word that was zero is programmed without an error (spec/43_lci.md R244). -/
theorem State.wordCode_of_zero (backend : s.cfg.backendWritable = true) (zero : s.image.data.half a = 0#16) :
    s.wordCode a v = .noError := by
  simp [State.wordCode, backend, clearsBit, zero]

/-! ### The request while it runs -/

/-- From `s` a request for `(st, cnt)` was taken up and its words `0 .. k` were programmed, the last not yet completed. -/
structure State.LciProgrammed (s : State) (st cnt : Nat) (cb : CallbackId) (k : Nat) (t : State) : Prop where
  frame : s.frame [.image, .lci, .err, .pending, .answers] t
  waits : t.lci.fsm = .writeWait
  buf : t.lci.buf = s.cfg.lcEncode st cnt
  cursor : t.lci.cursor = k
  callback : t.lci.cb = some cb
  pending : t.pending = s.pending ++ [.lciWordDone]
  canonical : t.image.data.wf = true ∧ t.image.ecc.wf = true
  stored : ∀ w, t.image.data.half (s.cfg.lcAddress w) =
    if w ≤ k then s.image.data.half (s.cfg.lcAddress w) ||| (s.cfg.lcEncode st cnt).getD w 0#16
    else s.image.data.half (s.cfg.lcAddress w)
  clean : (∀ h ∈ s.lcStored, h = 0#16) → t.lci.err = .noError

/-- From `s` a request for `(st, cnt)` was taken up and all its words were programmed and completed. -/
structure State.LciCompleted (s : State) (st cnt : Nat) (cb : CallbackId) (u : State) : Prop where
  cfg : u.cfg = s.cfg
  idle : u.lci.fsm = .idle
  pending : u.pending = s.pending
  stored : u.lcStored = orWords s.lcStored (s.cfg.lcEncode st cnt)
  acknowledged : (∀ h ∈ s.lcStored, h = 0#16) → (s.backing = none ∨ Config.persistOk s.draws = true) →
    .lcAck cb true ∈ u.outputs.drop s.outputs.length

section

variable (backend : s.cfg.backendWritable = true) (free : .lciWordDone ∉ s.pending)

include backend in
/-- LCPROG programs word 0. -/
theorem lcprog_programs (words : 0 < s.cfg.lcWords) (hd : s.image.data.wf = true) (he : s.image.ecc.wf = true)
    (idle : s.lci.fsm = .idle) (programmable : s.cfg.lcProgrammable st = true) (counted : cnt ≤ s.cfg.lcCntMax) :
    ∃ t, exec (.lcprog st cnt cb) s = .next t ∧ s.LciProgrammed st cnt cb 0 t := by
  obtain ⟨t, ran, stored, lci, -, pending, -, frame⟩ :=
    (lcprogAnswers s st cnt cb programmable counted).2.2 idle hd he
  refine ⟨t, ran, frame, by rw [lci], by rw [lci], by rw [lci], by rw [lci], pending, exec_image_wf ran hd he,
    fun w => ?_, fun blank => ?_⟩
  · rw [State.wordStored.half (k := 0) stored backend w]
    by_cases first : w = 0 <;> simp [first]
  · rw [lci]
    exact State.wordCode_of_zero (a := s.cfg.lcAddress 0) backend (State.half_of_blank blank words)

include free in
theorem State.LciProgrammed.erase_pending (h : s.LciProgrammed st cnt cb k t) :
    t.pending.erase .lciWordDone = s.pending := by
  rw [h.pending, List.erase_append_right _ free]
  simp

include backend free in
/-- A completion before the last word programs the next one. -/
theorem State.LciProgrammed.next (h : s.LciProgrammed st cnt cb k t) (more : k + 1 < s.cfg.lcWords) :
    ∃ u, exec .fireLciWordDone t = .next u ∧ s.LciProgrammed st cnt cb (k + 1) u := by
  have cfg : t.cfg = s.cfg := h.frame .cfg (by simp)
  obtain ⟨u, ran, stored, lci, pending, frame⟩ := lciWordDoneProgramsNext t (s.cfg.lcAddress (k + 1))
    ((s.cfg.lcEncode st cnt).getD (k + 1) 0#16) (by simp [h.pending]) (by simp [h.waits])
    (by rw [cfg, h.cursor]; exact more) h.canonical.1 h.canonical.2 (by rw [cfg, h.cursor]; rfl)
    (by rw [h.buf, h.cursor])
  refine ⟨u, ran, (h.frame.append frame).mono (by simp), by rw [lci], by rw [lci, h.buf], by rw [lci, h.cursor],
    by rw [lci, h.callback], by rw [pending, h.erase_pending free],
    exec_image_wf ran h.canonical.1 h.canonical.2, fun w => ?_, fun blank => ?_⟩
  · rw [← cfg] at stored
    have word := stored.half (cfg ▸ backend) w
    rw [cfg, h.stored w] at word
    rw [word]
    rcases Nat.lt_trichotomy w (k + 1) with before | rfl | behind
    · rw [if_neg (by omega), if_pos (by omega), if_pos (by omega)]
    · simp
    · rw [if_neg (by omega), if_neg (by omega), if_neg (by omega)]
  · have zero : t.image.data.half (s.cfg.lcAddress (k + 1)) = 0#16 := by
      rw [h.stored, if_neg (by omega), State.half_of_blank blank more]
    simp [lci, h.clean blank, State.wordCode_of_zero (cfg ▸ backend) zero, firstError]

include free in
/-- The completion of the last word ends the request. -/
theorem State.LciProgrammed.last (h : s.LciProgrammed st cnt cb k t) (last : k + 1 = s.cfg.lcWords) :
    ∃ u, exec .fireLciWordDone t = .next u ∧ s.LciCompleted st cnt cb u := by
  have cfg : t.cfg = s.cfg := h.frame .cfg (by simp)
  obtain ⟨u, ev, ran, lci, -, -, -, pending, outputs, -, -, frame⟩ :=
    (lciLastWordAcknowledges t cb _ (by simp [h.pending]) h.callback rfl).1 (by simp [h.waits])
      (by rw [cfg, h.cursor, last])
  have cfg' : u.cfg = s.cfg := (frame .cfg (by simp)).trans cfg
  have image : u.image = t.image := frame .image (by simp)
  refine ⟨u, ran, cfg', by rw [lci], pending.trans (h.erase_pending free), ?_, fun blank persists => ?_⟩
  · refine List.ext_getElem (by simp [cfg', orWords]) fun w hw _ => ?_
    rw [State.lcStored_length, cfg'] at hw
    rw [State.lcStored_getElem, image, cfg', h.stored w, if_pos (by omega)]
    simp [orWords, hw]
  · have kept : t.outputs = s.outputs := h.frame .outputs (by simp)
    have backing : t.backing = s.backing := h.frame .backing (by simp)
    have draws : t.draws = s.draws := h.frame .draws (by simp)
    have persisted : (s.backing.isSome && !Config.persistOk s.draws) = false := by
      rcases persists with none | ok
      · simp [none]
      · simp [ok]
    rw [outputs, kept, List.drop_left, h.clean blank, backing, draws, persisted]
    simp [firstError]

/-! ### All completions -/

theorem fireWords_succ (n : Nat) (ran : exec .fireLciWordDone s = .next t) :
    fireWords (n + 1) s = fireWords n t := by
  rw [fireWords, ran]

include backend free in
/-- The completions that are left end the request. -/
theorem State.LciProgrammed.fireWords {n : Nat} (h : s.LciProgrammed st cnt cb k t)
    (left : k + (n + 1) = s.cfg.lcWords) : ∃ u, fireWords (n + 1) t = .next u ∧ s.LciCompleted st cnt cb u := by
  induction n generalizing k t with
  | zero =>
    obtain ⟨u, ran, completed⟩ := h.last free left
    exact ⟨u, fireWords_succ 0 ran, completed⟩
  | succ n ih =>
    obtain ⟨r, ran, next⟩ := h.next backend free (by omega)
    obtain ⟨u, rest, completed⟩ := ih next (by omega)
    exact ⟨u, (fireWords_succ (n + 1) ran).trans rest, completed⟩

end

/-- Settles O36: the completed request leaves its encoding ORed onto the partition, which decodes by law L2. -/
theorem lifeCycleProgramRoundTrip : Obligations.LifeCycleProgramRoundTrip := by
  intro s st cnt cb _ codec words backend hd he idle free programmable counted state count
  obtain ⟨t, ran, first⟩ := lcprog_programs (cb := cb) backend words hd he idle programmable counted
  obtain ⟨n, all⟩ := Nat.exists_eq_succ_of_ne_zero words.ne'
  obtain ⟨u, fired, completed⟩ := first.fireWords (n := n) backend free (by omega)
  refine ⟨t, u, ran, all ▸ fired, ?_, completed.idle, completed.pending ▸ free, completed.acknowledged⟩
  rw [completed.cfg, completed.stored, lcDecode_orWords s.cfg (by simp) state count]
  exact lifeCycleCodecRoundTrip s.cfg st cnt codec programmable counted

end Sys2Proof.Machine
end

section
/-! What power-up leaves (spec/44_powerup.md R260 to R270): the pulse, the working copies of the partitions, what it
decides for one partition and records for it, and the caches read from the copies. -/

namespace Sys2Proof.Machine

variable {s u : State} {p : Nat}

/-! ### The pulse (spec/44_powerup.md R260, R268) -/

theorem exec_pwrup (fresh : s.dai.fsm = .reset) :
    exec .pwrup s = .next (State.updateOutputs s (powerup s)) := if_pos fresh

theorem exec_pwrup_ignored (late : s.dai.fsm ≠ .reset) : exec .pwrup s = .next s :=
  (if_neg late).trans (complete_self s)

theorem powerup_frame (s : State) :
    s.frame [.parts, .dai, .lci, .lcinfo, .hwcfg, .intrState, .alertLatch, .err, .outputs] (powerup s) := by
  intro f out
  cases f <;> simp [State.agree] at out ⊢

/-- Settles O39: the pulse ends in the power-up state, and the only events behind the acknowledgement report lines and
latches. -/
theorem powerupPulse : Obligations.PowerupPulse := by
  refine fun s => ⟨exec_pwrup_ignored, fun fresh => ⟨_, outputChanges s (powerup s), exec_pwrup fresh, powerup_dai s,
    powerup_lci s, ?_, outputChanges_plain s _, (powerup_records s).done, ?_⟩⟩
  · simp [powerup_outputs]
  · exact ((powerup_frame s).append (State.updateOutputs_frame s _)).mono (by simp)

/-! ### One partition among the others -/

/-- In `u` partition `p` is found as in `s`: the same stored bytes, the same runtime state and the same slot. -/
structure State.FindsAs (s : State) (p : Nat) (u : State) : Prop where
  cfg : u.cfg = s.cfg
  image : u.image = s.image
  part : u.part p = s.part p
  slot : u.errAt p = s.errAt p
  parts : u.parts.length = s.parts.length
  slots : u.err.length = s.err.length

namespace State.FindsAs

variable (h : s.FindsAs p u)

include h

theorem readsClean : u.readsClean p ↔ s.readsClean p := by
  simp only [State.readsClean, h.cfg, h.image]

theorem corrects : u.corrects p ↔ s.corrects p := by
  simp only [State.corrects, h.cfg, h.image]

theorem correctedBytes : u.correctedBytes p = s.correctedBytes p := by
  simp only [State.correctedBytes, h.cfg, h.image]

theorem failsCheck : u.failsCheck p ↔ s.failsCheck p := by
  simp only [State.failsCheck, h.readsClean, State.storedDigest, h.correctedBytes, h.cfg, h.image]

end State.FindsAs

/-- The working copies power-up reads its caches from (spec/44_powerup.md R261). -/
def State.workingCopies (s : State) : List (List Byte) :=
  (powerupParts (s.mapDai fun d => { d with fsm := .init })).2

/-- Power-up treats a partition as if it were the only one. -/
theorem powerup_one (hp : p < s.cfg.nPart) : ∃ u, s.FindsAs p u ∧
    (powerup s).part p = (powerupPartition p u).1.part p ∧ (powerup s).errAt p = (powerupPartition p u).1.errAt p ∧
    s.workingCopies.getD p [] = (powerupPartition p u).2 := by
  obtain ⟨parts, err, -⟩ := powerup_of_parts s
  obtain ⟨u, cfg, image, part, slot, count, slots, partAfter, slotAfter, copy⟩ :=
    powerupParts_one (s.mapDai fun d => { d with fsm := .init }) p hp
  refine ⟨u, ⟨cfg, image, part, slot, count, slots⟩, ?_, ?_, copy⟩
  · rw [← partAfter, State.part, parts, State.part]
  · rw [← slotAfter, State.errAt, err, State.errAt]

/-- An uncorrectable granule fails the partition, which stays unloaded (spec/44_powerup.md R261). -/
theorem powerup_dirty (hp : p < s.cfg.nPart) (hl : s.parts.length = s.cfg.nPart) (dirty : ¬ s.readsClean p) :
    (powerup s).part p = { s.part p with failed := true, fsm := .error } ∧
      (p < s.err.length → (powerup s).errAt p = .eccUncorrectable) := by
  obtain ⟨u, same, part, slot, -⟩ := powerup_one hp
  obtain ⟨failed, recorded⟩ :=
    powerupPartition_dirty u p (same.parts.trans hl ▸ hp) (fun clean => dirty (same.readsClean.mp clean))
  exact ⟨by rw [part, failed, same.part], fun inSlots => slot.trans (recorded (same.slots ▸ inSlots))⟩

section

variable (htable : s.cfg.partTableOk = true) (hp : p < s.cfg.nPart) (hl : s.parts.length = s.cfg.nPart)

include htable hp hl

/-- A partition without an uncorrectable granule is loaded from its corrected bytes (spec/44_powerup.md R261, R262). -/
theorem powerup_clean (clean : s.readsClean p) :
    (powerup s).part p = loadedPart s.cfg s.image p (s.correctedBytes p) (s.part p) ∧
      s.workingCopies.getD p [] = s.correctedBytes p := by
  obtain ⟨u, same, part, -, copy⟩ := powerup_one hp
  obtain ⟨-, -, oneDigest, -⟩ := desc_facts s.cfg htable p hp
  obtain ⟨copied, loaded, -⟩ := powerupPartition_clean u p (same.parts.trans hl ▸ hp) (same.readsClean.mpr clean)
    (by rwa [same.cfg])
  exact ⟨by rw [part, loaded, same.cfg, same.image, same.correctedBytes, same.part],
    by rw [copy, copied, same.correctedBytes]⟩

/-- The code of a wrong digest (spec/44_powerup.md R263). -/
theorem powerup_errAt_of_failsCheck (inSlots : p < s.err.length) (wrong : s.failsCheck p) :
    (powerup s).errAt p = .checkFail := by
  obtain ⟨u, same, -, slot, -⟩ := powerup_one hp
  obtain ⟨-, -, oneDigest, -⟩ := desc_facts s.cfg htable p hp
  obtain ⟨clean, hw, buffered, stored, differs⟩ := same.failsCheck.mpr wrong
  obtain ⟨-, -, recorded⟩ := powerupPartition_clean u p (same.parts.trans hl ▸ hp) clean
    (by rwa [same.cfg])
  exact slot.trans (recorded (same.slots ▸ inSlots) hw buffered stored differs)

/-- The code a loaded partition leaves (spec/44_powerup.md R261; spec/60_exceptions.md R410). -/
theorem powerup_errAt_of_loaded (inSlots : p < s.err.length) (clean : s.readsClean p) (right : ¬ s.failsCheck p) :
    (s.corrects p → (powerup s).errAt p = .eccCorrectable) ∧
      (¬ s.corrects p → (powerup s).errAt p = s.errAt p) := by
  obtain ⟨u, same, -, slot, -⟩ := powerup_one hp
  obtain ⟨-, -, oneDigest, -⟩ := desc_facts s.cfg htable p hp
  obtain ⟨-, -, -, code⟩ := powerupPartition_flags u p (same.parts.trans hl ▸ hp) (by rwa [same.cfg])
  have recorded := code (same.readsClean.mpr clean) (fun wrong => right (same.failsCheck.mp wrong))
    (same.slots ▸ inSlots)
  rwa [same.corrects, ← slot, same.slot] at recorded

end

/-! ### The verdict on a loaded partition (spec/44_powerup.md R262 to R264) -/

/-- A partition power-up has not yet looked at (spec/10_state.md R23). -/
structure Part.Fresh (q : Part) : Prop where
  fsm : q.fsm = .reset
  locked : q.locked = false
  failed : q.failed = false
  digest : q.digest = 0#64

theorem State.freshParts.fresh (h : s.freshParts) (hp : p < s.cfg.nPart) : (s.part p).Fresh := by
  obtain ⟨count, fresh⟩ := h
  have inParts : p < s.parts.length := count ▸ hp
  have listed : s.part p ∈ s.parts := by
    rw [State.part, List.getD_eq_getElem _ _ inParts]
    exact List.getElem_mem inParts
  obtain ⟨fsm, locked, failed, digest⟩ := fresh _ listed
  exact ⟨fsm, locked, failed, digest⟩

/-- Whether the partition is locked, failed and in which state it is. -/
def Part.Stands (q : Part) (locked failed : Bool) (fsm : PartFsm) : Prop :=
  q.locked = locked ∧ q.failed = failed ∧ q.fsm = fsm

/-- A stored digest locks a partition; without a wrong one it is Idle, whatever its kind. -/
theorem powerup_stands_of_loaded (htable : s.cfg.partTableOk = true) (hp : p < s.cfg.nPart) (fresh : s.freshParts)
    (clean : s.readsClean p) (right : ¬ s.failsCheck p) : ((powerup s).part p).Stands
      ((s.cfg.desc p).hasDigest && decide (s.storedDigest p ≠ 0#64)) false .idle := by
  obtain ⟨fsm, locked, failed, -⟩ := fresh.fresh hp
  rw [(powerup_clean htable hp fresh.1 clean).1, Part.Stands, loadedPart, ← State.storedDigest]
  by_cases checked : (s.cfg.desc p).hwDigest = true ∧ (s.cfg.desc p).buffered = true
  · obtain ⟨hw, buffered⟩ := checked
    by_cases none : s.storedDigest p = 0#64
    · simp [PartDesc.hasDigest, hw, buffered, none, fsm, locked, failed]
    · have agrees : s.cfg.partDigest s.image p (s.correctedBytes p) = s.storedDigest p :=
        Classical.byContradiction fun differs => right ⟨clean, hw, buffered, none, differs⟩
      simp [PartDesc.hasDigest, hw, buffered, none, agrees, fsm, failed]
  · have unchecked : ¬ ((s.cfg.desc p).hwDigest && (s.cfg.desc p).buffered) = true := by simpa using checked
    simp only [if_neg unchecked]
    cases kind : (s.cfg.desc p).hasDigest <;> cases buffered : (s.cfg.desc p).buffered <;>
      simp [fsm, locked, failed]

/-- A wrong digest locks and fails the partition (spec/44_powerup.md R263). -/
theorem powerup_stands_of_failsCheck (htable : s.cfg.partTableOk = true) (hp : p < s.cfg.nPart)
    (hl : s.parts.length = s.cfg.nPart) (wrong : s.failsCheck p) :
    ((powerup s).part p).Stands true true .error := by
  obtain ⟨clean, hw, buffered, stored, differs⟩ := wrong
  rw [(powerup_clean htable hp hl clean).1, Part.Stands, loadedPart, ← State.storedDigest]
  simp [PartDesc.hasDigest, hw, buffered, stored, differs]

@[simp] theorem State.updateOutputs_part (b s : State) (p : Nat) : (State.updateOutputs b s).part p = s.part p := rfl

@[simp] theorem State.updateOutputs_errAt (b s : State) (k : Nat) : (State.updateOutputs b s).errAt k = s.errAt k := rfl

/-- Settles O40: an unreadable partition is failed as it stood, a readable one is loaded and stands by its digest. -/
theorem powerupDecidesLocks : Obligations.PowerupDecidesLocks := by
  intro s htable pulse fresh slots
  have oneDigest (p : Nat) (hp : p < s.cfg.nPart) := (desc_facts s.cfg htable p hp).2.2.1
  obtain ⟨-, -, flags⟩ := powerup_of_parts s
  obtain ⟨error, macroLatch, checkLatch, -⟩ :=
    powerupParts_flags (s.mapDai fun d => { d with fsm := .init }) fresh.1 oneDigest
  rw [← flags] at error macroLatch checkLatch
  refine ⟨_, exec_pwrup pulse, ?_, fun q hq => powerup_errAt s hq, error, macroLatch, checkLatch⟩
  rintro p hp d (rfl : d = s.storedDigest p)
  simp only [State.updateOutputs_part, State.updateOutputs_errAt]
  have inSlots : p < s.err.length := by rw [slots, Config.nEntry]; omega
  obtain ⟨-, unlocked, -, noDigest⟩ := fresh.fresh hp
  by_cases clean : s.readsClean p
  · obtain ⟨digest, buffer, locks⟩ := loadedPart_fields s.cfg s.image p (s.correctedBytes p) (s.part p)
    rw [← (powerup_clean htable hp fresh.1 clean).1] at digest buffer locks
    rw [noDigest] at digest
    have stands := powerup_stands_of_loaded htable hp fresh clean
    refine ⟨locks, absurd clean, fun _ => ⟨digest, buffer,
      powerup_errAt_of_loaded htable hp fresh.1 inSlots clean, fun none => ?_, fun kind => ?_, fun hw buffered =>
        ⟨fun none => ?_, fun stored agrees => ?_, fun stored differs => ?_⟩⟩⟩
    · have right : ¬ s.failsCheck p := fun ⟨_, hw, _⟩ => by simp [PartDesc.hasDigest, hw] at none
      simpa [Part.Stands, none] using stands right
    · have right : ¬ s.failsCheck p := fun ⟨_, hw, buffered, _⟩ => kind.elim (fun sw => oneDigest p hp ⟨hw, sw⟩)
        fun ⟨_, unbuffered⟩ => by simp [buffered] at unbuffered
      have digested : (s.cfg.desc p).hasDigest = true := by
        rcases kind with sw | ⟨hw, -⟩ <;> simp [PartDesc.hasDigest, *]
      simpa only [Part.Stands, digested, Bool.true_and] using stands right
    · simpa [Part.Stands, none] using stands fun ⟨_, _, _, stored, _⟩ => stored none
    · simpa [Part.Stands, PartDesc.hasDigest, hw, stored] using stands fun ⟨_, _, _, _, differs⟩ => differs agrees
    · have wrong : s.failsCheck p := ⟨clean, hw, buffered, stored, differs⟩
      obtain ⟨locked, failed, fsm⟩ := powerup_stands_of_failsCheck htable hp fresh.1 wrong
      exact ⟨locked, failed, fsm, powerup_errAt_of_failsCheck htable hp fresh.1 inSlots wrong⟩
  · obtain ⟨part, recorded⟩ := powerup_dirty hp fresh.1 clean
    rw [part]
    exact ⟨⟨rfl, rfl, rfl⟩, fun _ => ⟨rfl, unlocked, rfl, noDigest, rfl, recorded inSlots⟩, fun h => absurd h clean⟩

/-! ### The caches (spec/44_powerup.md R265 to R267) -/

theorem powerupParts_copies_length (s : State) : (powerupParts s).2.length = s.cfg.nPart := by
  unfold powerupParts
  suffices ∀ (ps : List Nat) (acc : State × List (List Byte)),
      (ps.foldl (fun acc p => let r := powerupPartition p acc.1; (r.1, acc.2 ++ [r.2])) acc).2.length =
        acc.2.length + ps.length by
    simpa using this (List.range s.cfg.nPart) (s, [])
  intro ps
  induction ps with
  | nil => exact fun acc => rfl
  | cons p ps ih =>
    intro acc
    rw [List.foldl_cons, ih]
    simp only [List.length_append, List.length_cons, List.length_nil]
    omega

/-- The caches are read off the partitions as power-up leaves them. -/
theorem powerup_caches (s : State) :
    (powerup s).lcinfo = ((powerup s).loadLcInfo s.workingCopies).lcinfo ∧
      (powerup s).hwcfg = ((powerup s).loadHwCfg s.workingCopies).hwcfg := by
  simp only [powerup, State.workingCopies]
  generalize powerupParts (s.mapDai fun d => { d with fsm := .init }) = r
  exact ⟨rfl, rfl⟩

/-- The copy of a partition that did not fail holds its corrected bytes, and that of no partition is empty (log 27). -/
theorem workingCopies_getD {q : Nat} (htable : s.cfg.partTableOk = true) (hl : s.parts.length = s.cfg.nPart)
    (sound : ((powerup s).part q).failed = false) : s.workingCopies.getD q [] = s.correctedBytes q := by
  by_cases hq : q < s.cfg.nPart
  · have clean : s.readsClean q := by
      by_contra dirty
      rw [(powerup_dirty hq hl dirty).1] at sound
      cases sound
    exact (powerup_clean htable hq hl clean).2
  · have beyond : s.cfg.partTable.length ≤ q := Nat.le_of_not_lt hq
    have noCopy : s.workingCopies.length ≤ q := (powerupParts_copies_length _).trans_le beyond
    rw [List.getD_eq_default _ _ noCopy, State.correctedBytes, Config.desc, List.getD_eq_default _ _ beyond]
    rfl

/-- A field is cut from the corrected bytes, or zero where its partition failed (spec/44_powerup.md R266, R267). -/
theorem powerup_fieldOf (htable : s.cfg.partTableOk = true) (hl : s.parts.length = s.cfg.nPart) (q o n : Nat) :
    (powerup s).fieldOf s.workingCopies q o n =
      if ((powerup s).part q).failed then List.replicate n 0#8 else bytesAt (s.correctedBytes q) o n := by
  unfold State.fieldOf
  split
  · rfl
  · rename_i sound
    rw [workingCopies_getD htable hl (by simpa using sound)]

theorem lcPart_noDigest (c : Config) (htable : c.partTableOk = true) : (c.desc c.lcPart).hasDigest = false := by
  obtain ⟨-, hw, sw, -⟩ := ((partTableOk_iff c).mp htable).lifeCycle
  simp [PartDesc.hasDigest, hw, sw]

/-- The life-cycle partition carries no digest, so only an uncorrectable granule fails it (spec/44_powerup.md R265). -/
theorem powerup_lcDecoded (htable : s.cfg.partTableOk = true) (fresh : s.freshParts) :
    (¬ s.readsClean s.cfg.lcPart → (powerup s).lcDecoded s.workingCopies =
      { state := s.cfg.lcInvalid, count := 0, valid := false }) ∧
    (s.readsClean s.cfg.lcPart → (powerup s).lcDecoded s.workingCopies =
      s.cfg.lcDecode (halvesOf (s.correctedBytes s.cfg.lcPart))) := by
  have hp := lcPart_lt s.cfg htable
  simp only [State.lcDecoded, powerup_cfg]
  refine ⟨fun dirty => ?_, fun clean => ?_⟩
  · rw [(powerup_dirty hp fresh.1 dirty).1, if_pos rfl]
  · have right : ¬ s.failsCheck s.cfg.lcPart := fun ⟨_, hw, _⟩ => by
      simpa [PartDesc.hasDigest, hw] using lcPart_noDigest s.cfg htable
    obtain ⟨-, sound, -⟩ := powerup_stands_of_loaded htable hp fresh clean right
    rw [if_neg (by simp [sound]), (powerup_clean htable hp fresh.1 clean).2]

/-- Settles O41: every cache is a decode or a cut of the corrected bytes of its partition, and follows its verdict. -/
theorem powerupLoadsCaches : Obligations.PowerupLoadsCaches := by
  intro s htable pulse fresh
  obtain ⟨lcinfo, hwcfg⟩ := powerup_caches s
  obtain ⟨invalid, decoded⟩ := powerup_lcDecoded htable fresh
  have field := powerup_fieldOf htable fresh.1
  refine ⟨_, exec_pwrup pulse, fun dirty => ?_, fun clean => ?_, ?_, ?_, ?_⟩
  · simp [lcinfo, State.loadLcInfo, invalid dirty]
  · simp [lcinfo, State.loadLcInfo, decoded clean]
  · simp [lcinfo, State.loadLcInfo, State.secured]
  · simp only [State.updateOutputs_hwcfg, hwcfg, State.loadHwCfg, powerup_cfg, List.forall_mem_cons]
    exact ⟨field .., field .., field .., field .., List.forall_mem_nil _⟩
  · simp only [State.updateOutputs_lcinfo, lcinfo, State.loadLcInfo, State.tokenOf, powerup_cfg,
      List.forall_mem_cons]
    exact ⟨⟨rfl, field ..⟩, ⟨rfl, field ..⟩, ⟨rfl, field ..⟩, List.forall_mem_nil _⟩

end Sys2Proof.Machine
end

section
/-! Key derivation and the entropy pool (spec/45_keyderiv.md R280 to R283): what a refill asks for, the words a key
request takes, the key it answers, and an entropy delivery. -/

namespace Sys2Proof.Machine

variable {s : State} {k : Nat} {kt : KeyType}

/-! ### The refill (spec/45_keyderiv.md R283) -/

theorem State.refill_frame (s : State) : s.frame [.pool, .pending, .outputs] s.refill := by
  intro f out
  cases f <;> simp [State.agree] at out ⊢

/-- A refill that finds the pool full, or its request outstanding, does nothing; another leaves the request noted, owed
and sent. -/
theorem State.refill_asks (s : State) :
    (s.pool.requested = s.refill.pool.requested → s.refill.pending = s.pending ∧ s.refill.outputs = s.outputs) ∧
    (s.pool.requested ≠ s.refill.pool.requested → s.refill.pending = s.pending ++ [.entropyRequest] ∧
      s.refill.outputs = s.outputs ++ [.entropyReq]) := by
  unfold State.refill
  split
  · rename_i asks
    simp [asks.2]
  · simp

/-! ### The words a key request takes (spec/45_keyderiv.md R280, R282) -/

/-- The state after `n` words were taken: the oldest words leave the pool, and the shortfall uses up draws. -/
def State.taken (n : Nat) (s : State) : State :=
  { s with pool := { s.pool with words := s.pool.words.drop n }, draws := s.draws + (n - s.pool.words.length) }

theorem State.takeWords_taken (n : Nat) (s : State) :
    State.takeWords n s = ((List.range n).map s.entropyWord, s.taken n) :=
  Prod.ext_iff.mpr (State.takeWords_eq n s)

theorem State.taken_taken (m n : Nat) (s : State) : (s.taken m).taken n = s.taken (m + n) := by
  have draws : s.draws + (m - s.pool.words.length) + (n - (s.pool.words.length - m)) =
      s.draws + (m + n - s.pool.words.length) := by omega
  simp only [State.taken, List.drop_drop, List.length_drop, draws]

/-- After `m` words the next request begins at word `m`. -/
theorem State.entropyWord_taken (m : Nat) (s : State) (j : Nat) :
    (s.taken m).entropyWord j = s.entropyWord (m + j) := by
  simp only [State.entropyWord, State.taken, List.length_drop]
  by_cases buffered : m + j < s.pool.words.length
  · rw [if_pos (by omega), if_pos buffered, List.getD_eq_getElem?_getD, List.getElem?_drop,
      List.getD_eq_getElem?_getD]
  · rw [if_neg (by omega), if_neg buffered]
    congr 1
    omega

theorem State.taken_frame (n : Nat) (s : State) : s.frame [.pool, .draws] (s.taken n) := by
  intro f out
  cases f <;> simp [State.agree, State.taken] at out ⊢

/-! ### A key request (spec/45_keyderiv.md R282) -/

/-- The triple a key request answers: the key, derived from the words behind those of the nonce, the nonce, and the
validity. -/
def State.keyAnswer (k : Nat) (kt : KeyType) (s : State) : Answer :=
  .key (s.cfg.deriveKey k (s.keySeed kt)
      ((List.range kt.entropyWords).map fun j => s.entropyWord (kt.nonceWords + j)) s.image.digestIv)
    ((List.range kt.nonceWords).map s.entropyWord) (s.keyValid kt.seedPart)

theorem getKey_eq (k : Nat) (kt : KeyType) (s : State) :
    getKey k kt s = (s.taken (kt.nonceWords + kt.entropyWords)).refill.answer (s.keyAnswer k kt) := by
  have behindNonce : (s.taken kt.nonceWords).entropyWord = fun j => s.entropyWord (kt.nonceWords + j) :=
    funext (s.entropyWord_taken kt.nonceWords)
  simp only [getKey, State.takeWords_taken, State.taken_taken, behindNonce, State.keyAnswer]

/-- Neither interrupts nor alerts change, so the operation emits nothing more. -/
theorem exec_getkey (listed : s.cfg.keyTypes[k]? = some kt) : exec (.getkey k) s = .next (getKey k kt s) := by
  have runs : exec (.getkey k) s = complete s (getKey k kt s) := by
    rw [exec_admitted (.getkey k) s (by rw [admits, listed, Option.isSome_some]), complete_eq, after, keyAfter, listed]
  exact runs.trans (complete_same s _ (by simp) (by simp) (by simp))

/-- The seed byte by byte (spec/45_keyderiv.md R282; logs 27 and 31). -/
theorem State.keySeed_eq (s : State) (kt : KeyType) : s.keySeed kt = (List.range kt.keyBytes).map fun j =>
    if (s.cfg.desc kt.seedPart).buffered then (s.part kt.seedPart).buffer.getD (kt.seedOffset + j) 0#8
    else s.image.data.get ((s.cfg.desc kt.seedPart).byteOffset + kt.seedOffset + j) := by
  unfold State.keySeed
  split <;> rfl

/-- Settles O48: a key request takes its words, refills and answers, in that order. -/
theorem keyRequestConsumesEntropy : Obligations.KeyRequestConsumesEntropy := by
  rintro s k kt m listed rfl
  refine ⟨_, exec_getkey listed, ?_⟩
  rw [getKey_eq]
  set u := s.taken (kt.nonceWords + kt.entropyWords) with taken
  refine ⟨?_, ?_, ?_, ?_, u.refill_asks.1, u.refill_asks.2, ?_⟩
  · rw [State.answer_answers, State.refill_answers, State.keyAnswer, State.keySeed_eq]
    rfl
  · rw [State.answer_pool, State.refill_words, taken, State.taken]
  · rw [State.answer_draws, State.refill_draws, taken, State.taken]
  · simp only [State.answer_pool, State.refill_requested, taken, State.taken, List.length_drop]
  · exact (((s.taken_frame _).append u.refill_frame).append (State.answer_frame _ _)).mono (by simp)

/-! ### An entropy delivery (spec/45_keyderiv.md R281) -/

/-- The state of a delivery before its refill: the request is answered, and the word pushed unless the pool is full. -/
def State.delivered (w : Word) (s : State) : State :=
  { s with pool := { words := if s.pool.words.length < s.cfg.entropyCap then s.pool.words ++ [w] else s.pool.words
                     requested := false }
           pending := s.pending.erase .entropyRequest }

theorem deliverEntropy_eq (w : Word) (s : State) : deliverEntropy w s = (s.delivered w).refill := rfl

theorem State.delivered_frame (w : Word) (s : State) : s.frame [.pool, .pending] (s.delivered w) := by
  intro f out
  cases f <;> simp [State.agree, State.delivered] at out ⊢

/-- The flag is not looked at (spec/45_keyderiv.md R281), and nothing is emitted but the next request. -/
theorem exec_entropy (w : Word) (fips : Bool) (s : State) :
    exec (.entropy w fips) s = .next (deliverEntropy w s) :=
  (exec_admitted (.entropy w fips) s rfl).trans (complete_same s (deliverEntropy w s) (by simp) (by simp) (by simp))

/-- Settles O49: a delivery leaves no request outstanding, so its refill asks exactly where there is room. -/
theorem entropyDeliveryRefills : Obligations.EntropyDeliveryRefills := by
  refine fun s w f => ⟨_, exec_entropy w f s, exec_entropy w (!f) s, ?_⟩
  rw [deliverEntropy_eq]
  set u := s.delivered w with delivered
  have answered : u.pool.requested = false := rfl
  have requested : u.refill.pool.requested = decide (u.refill.pool.words.length < s.cfg.entropyCap) := by
    rw [State.refill_words, State.refill_requested, answered, Bool.false_or]
    rfl
  refine ⟨by rw [State.refill_words, delivered, State.delivered], fun room => ?_, fun full => ?_, ?_⟩
  · have asked : u.refill.pool.requested = true := by rw [requested, decide_eq_true room]
    exact ⟨asked, u.refill_asks.2 (by rw [answered, asked]; decide)⟩
  · have silent : u.refill.pool.requested = false := by rw [requested, decide_eq_false full.not_gt]
    exact ⟨silent, u.refill_asks.1 (answered.trans silent.symm)⟩
  · exact ((s.delivered_frame w).append u.refill_frame).mono (by simp)

end Sys2Proof.Machine
end

section
/-! The events an operation emits (spec/46_registers.md R319, spec/47_interfaces.md R350): before its outputs are updated
none is an interrupt or an alert, so the last level reported of a line follows the level of the line. -/

namespace Sys2Proof.Machine

variable {s t u : State}

/-! ### Plain events -/

/-- From `s` to `t` events were emitted that are neither interrupts nor alerts. -/
def State.EmitsPlain (s t : State) : Prop :=
  ∃ mid, (∀ o ∈ mid, o.plain = true) ∧ t.outputs = s.outputs ++ mid

namespace State.EmitsPlain

theorem of_same (same : t.outputs = s.outputs) : s.EmitsPlain t := ⟨[], by simp, by simp [same]⟩

theorem of_event (o : Output) (plain : o.plain = true) (emitted : t.outputs = s.outputs ++ [o]) : s.EmitsPlain t :=
  ⟨[o], by simpa using plain, emitted⟩

/-- The relation looks at the events alone. -/
theorem of_start (h : u.EmitsPlain t) (same : u.outputs = s.outputs) : s.EmitsPlain t := by
  obtain ⟨mid, plain, emitted⟩ := h
  exact ⟨mid, plain, by rw [emitted, same]⟩

end State.EmitsPlain

theorem lciAck_emitsPlain (s : State) (ok : Bool) : s.EmitsPlain (s.lciAck ok) := by
  cases held : s.lci.cb with
  | none => exact .of_same (by simp [State.lciAck, held])
  | some cb => exact .of_event (.lcAck cb ok) rfl (s.lciAck_outputs ok cb held)

theorem lciFinish_emitsPlain (s : State) : s.EmitsPlain s.lciFinish := by
  unfold State.lciFinish
  dsimp only
  refine (lciAck_emitsPlain _ _).of_start ?_
  split <;> simp

/-- A fired completion acknowledges a failed request, programs the next word, or ends the request
(spec/43_lci.md R245). -/
theorem lciWordDone_emitsPlain (s : State) : s.EmitsPlain (lciWordDone s) := by
  by_cases failed : s.lci.fsm = .error
  · rw [lciWordDone_failed failed]
    exact (lciAck_emitsPlain _ _).of_start (by simp)
  · by_cases more : s.lci.cursor + 1 < s.cfg.lcWords
    · exact .of_same (by simp [lciWordDone, failed, more])
    · rw [lciWordDone_last failed (not_lt.mp more)]
      exact (lciFinish_emitsPlain _).of_start rfl

theorem refill_emitsPlain (s : State) : s.EmitsPlain s.refill := by
  by_cases kept : s.pool.requested = s.refill.pool.requested
  · exact .of_same (s.refill_asks.1 kept).2
  · exact .of_event .entropyReq rfl (s.refill_asks.2 kept).2

theorem keyAfter_emitsPlain (s : State) (k : Nat) : s.EmitsPlain (keyAfter k s) := by
  unfold keyAfter
  split
  · rw [getKey_eq]
    exact (refill_emitsPlain _).of_start rfl
  · exact .of_same rfl

/-- Interrupts and alerts are emitted by the update of the outputs alone. -/
theorem after_emitsPlain (s : State) (i : Instr) : s.EmitsPlain (after s i) := by
  cases i
  case fireLciWordDone => exact lciWordDone_emitsPlain s
  case fireLciFail cb => exact .of_event (.lcAck cb false) rfl rfl
  case getkey k => exact keyAfter_emitsPlain s k
  case entropy w _ => exact (refill_emitsPlain (s.delivered w)).of_start rfl
  case reset => exact (refill_emitsPlain s.cleared).of_start rfl
  case pwrup =>
    simp only [after]
    split
    · exact .of_event .pwrupAck rfl (powerup_outputs s)
    · exact .of_same rfl
  case daiRd | daiWr | daiDigest => exact .of_same (daiGate_keeps s State.outputs _ (by simp))
  case wrDaiCmd v =>
    exact .of_same (daiGate_keeps s State.outputs _ (daiCommand_keeps s State.outputs v (by simp) (by simp) (by simp)))
  case wrDaiRegwen | wrDaiAddress | wrDaiWdata0 | wrDaiWdata1 | wrReadLock =>
    simp only [after]
    (repeat' split) <;> exact .of_same rfl
  case wrd | lcsig | lcprog | fireDaiDone => exact .of_same (by simp [after])
  all_goals exact .of_same rfl

/-! ### The reported changes (spec/46_registers.md R319) -/

theorem State.irqLevel_eq_line (s : State) (k : Fin 2) : s.irqLevel k = s.line k.val :=
  BitVec.getLsbD_and

theorem irqEvents_eq (s t : State) (k : Fin 2) :
    irqEvents s t k = if s.line k.val = t.line k.val then [] else [.irq k (t.line k.val)] := by
  rw [irqEvents, State.irqLevel_eq_line, State.irqLevel_eq_line]

theorem alertEvents_eq (s t : State) (k : Fin 2) : alertEvents s t k =
    if !s.alertLatch.getLsbD k.val && t.alertLatch.getLsbD k.val then [.alert k] else [] := by
  rw [alertEvents, Bool.and_comm]

/-- The events of an operation are plain ones, and then the changes of the lines and the latches. -/
theorem exec_outputs {i : Instr} (ran : exec i s = .next t) :
    ∃ mid, (∀ o ∈ mid, o.plain = true) ∧ t.outputs = s.outputs ++ mid ++ outputChanges s t := by
  obtain ⟨-, rfl⟩ := exec_next i s t ran
  obtain ⟨mid, plain, emitted⟩ := after_emitsPlain s i
  refine ⟨mid, plain, ?_⟩
  rw [State.updateOutputs_outputs, emitted]
  rfl

/-- Settles O15: the update of the outputs stands at the end of every operation. -/
theorem operationsReportTheirChanges : Obligations.OperationsReportTheirChanges := by
  intro i s t ran
  obtain ⟨mid, plain, emitted⟩ := exec_outputs ran
  refine ⟨mid, plain, ?_⟩
  simp only [emitted, outputChanges, irqEvents_eq, alertEvents_eq, List.append_assoc]
  rfl

/-! ### The level last reported (spec/10_state.md R28) -/

theorem lastIrq_append (k : Fin 2) (os os' : List Output) :
    lastIrq k (os ++ os') = os'.foldl (irqAfter k) (lastIrq k os) := List.foldl_append

theorem foldl_irqAfter_plain (k : Fin 2) (l : Bool) (os : List Output) (plain : ∀ o ∈ os, o.plain = true) :
    os.foldl (irqAfter k) l = l := by
  induction os with
  | nil => rfl
  | cons o os ih =>
    obtain ⟨first, rest⟩ := List.forall_mem_cons.mp plain
    have kept : irqAfter k l o = l := by
      cases o with
      | irq => cases first
      | _ => rfl
    rw [List.foldl_cons, kept, ih rest]

/-- The event of one line takes that line from its old level to its new one, and leaves the other. -/
theorem foldl_irqAfter_irqEvents (s t : State) (j k : Fin 2) (l : Bool) (level : j = k → l = s.line k.val) :
    (irqEvents s t j).foldl (irqAfter k) l = if j = k then t.line k.val else l := by
  rw [irqEvents_eq]
  by_cases own : j = k
  · subst own
    rw [if_pos rfl, level rfl]
    split
    · assumption
    · exact if_pos rfl
  · rw [if_neg own]
    split
    · rfl
    · exact if_neg own

theorem foldl_irqAfter_alertEvents (s t : State) (j k : Fin 2) (l : Bool) :
    (alertEvents s t j).foldl (irqAfter k) l = l := by
  unfold alertEvents
  split <;> rfl

theorem foldl_irqAfter_outputChanges (s t : State) (k : Fin 2) :
    (outputChanges s t).foldl (irqAfter k) (s.line k.val) = t.line k.val := by
  rw [outputChanges, List.foldl_append, List.foldl_append, List.foldl_append, foldl_irqAfter_alertEvents,
    foldl_irqAfter_alertEvents, foldl_irqAfter_irqEvents s t 0 k _ fun _ => rfl]
  obtain rfl | rfl : k = 0 ∨ k = 1 := by omega
  · exact foldl_irqAfter_irqEvents s t 1 0 _ fun own => absurd own (by decide)
  · exact foldl_irqAfter_irqEvents s t 1 1 _ fun _ => rfl

theorem exec_lastIrq {i : Instr} (ran : exec i s = .next t) (k : Fin 2) (level : lastIrq k s.outputs = s.line k.val) :
    lastIrq k t.outputs = t.line k.val := by
  obtain ⟨mid, plain, emitted⟩ := exec_outputs ran
  rw [emitted, lastIrq_append, lastIrq_append, level, foldl_irqAfter_plain k _ mid plain, foldl_irqAfter_outputChanges]

/-- Settles O16: a step waits, or runs one operation, which starts with the levels of the state before. -/
theorem interruptLevelsAreReported : Obligations.InterruptLevelsAreReported := by
  intro s t level ran k
  obtain ⟨-, ⟨-, rfl⟩ | ⟨i, rest, -, executed⟩⟩ := step_next s t ran
  · exact level k
  · exact exec_lastIrq (s := { s with inbox := rest }) executed k (level k)

end Sys2Proof.Machine
end

section
/-! The registers (spec/46_registers.md R300 to R317): what reads answer, which writes are ignored, and what the writes
that touch no engine store. -/

namespace Sys2Proof.Machine

variable {s t : State} {p : Nat}

/-! ### Reads and ignored writes (spec/46_registers.md R300, R302) -/

/-- An answer is no change of the lines or the latches. -/
theorem complete_answer (s : State) (a : Answer) : complete s (s.answer a) = .next (s.answer a) :=
  complete_same s _ rfl rfl rfl

theorem readReg_present (s : State) (r : Reg) (present : s.cfg.hasReg r = true) :
    readReg r s = .next (s.answer (.data (s.readValue r))) :=
  (if_pos present).trans (complete_answer s _)

theorem ignoreWrite_present (s : State) (r : Reg) (present : s.cfg.hasReg r = true) : ignoreWrite r s = .next s :=
  (if_pos present).trans (complete_self s)

theorem hasReg_errCode {c : Config} {k : Nat} (hk : k < (c.nPart + 2 + 9) / 10) : c.hasReg (.errCode k) = true :=
  decide_eq_true hk

theorem hasReg_readLock {c : Config} (hp : p < c.nPart) (lockable : (c.desc p).readLockable = true) :
    c.hasReg (.readLock p) = true := by
  simp [Config.hasReg, hp, lockable]

theorem hasReg_digest0 {c : Config} (hp : p < c.nPart) (digest : (c.desc p).hasDigest = true) :
    c.hasReg (.digest0 p) = true := by
  simp [Config.hasReg, hp, digest]

theorem hasReg_digest1 {c : Config} (hp : p < c.nPart) (digest : (c.desc p).hasDigest = true) :
    c.hasReg (.digest1 p) = true := by
  simp [Config.hasReg, hp, digest]

/-- The write enable as R308 words it. -/
theorem readValue_daiRegwen (s : State) :
    s.readValue .daiRegwen = if s.dai.regwenSw = true ∧ s.dai.fsm = .idle then 1#32 else 0#32 :=
  if_congr s.regwen_iff rfl rfl

theorem exec_rdDaiRegwen (s : State) : exec .rdDaiRegwen s =
    .next (s.answer (.data (if s.dai.regwenSw = true ∧ s.dai.fsm = .idle then 1#32 else 0#32))) := by
  rw [← readValue_daiRegwen]
  exact readReg_present s .daiRegwen rfl

/-- Settles O7: every register read answers its row of the table. -/
theorem registerReadsAnswerTheirFields : Obligations.RegisterReadsAnswerTheirFields := by
  intro s
  have listed (r : Reg) := readReg_present s r
  refine ⟨listed .intrState rfl, listed .intrEnable rfl, listed .intrTest rfl, listed .alertTest rfl,
    exec_rdDaiRegwen s, listed .daiCmd rfl, listed .daiAddress rfl, listed .daiWdata0 rfl, listed .daiWdata1 rfl,
    listed .daiRdata0 rfl, listed .daiRdata1 rfl, listed .checkTriggerRegwen rfl, listed .checkTrigger rfl,
    listed .checkRegwen rfl, listed .checkTimeout rfl, fun p hp => ⟨fun lockable => ?_, fun digest => ?_⟩⟩
  · exact listed (.readLock p) (hasReg_readLock hp lockable)
  · have digest : (s.cfg.desc p).hasDigest = true := Bool.or_eq_true _ _ ▸ digest
    exact ⟨listed (.digest0 p) (hasReg_digest0 hp digest), listed (.digest1 p) (hasReg_digest1 hp digest)⟩

/-- Settles O10: the write side of the read-only registers is empty. -/
theorem ignoredWritesChangeNothing : Obligations.IgnoredWritesChangeNothing := by
  intro s v
  have ignored (r : Reg) := ignoreWrite_present s r
  exact ⟨ignored .status rfl, fun k hk => ignored (.errCode k) (hasReg_errCode hk), ignored .daiRdata0 rfl,
    ignored .daiRdata1 rfl, fun p hp digest => ⟨ignored (.digest0 p) (hasReg_digest0 hp digest),
      ignored (.digest1 p) (hasReg_digest1 hp digest)⟩⟩

/-- Settles O11: the check registers hold nothing. -/
theorem checkRegistersAreStubs : Obligations.CheckRegistersAreStubs := by
  intro s v
  have listed (r : Reg) := readReg_present s r
  have ignored (r : Reg) := ignoreWrite_present s r
  exact ⟨listed .checkTriggerRegwen rfl, listed .checkTrigger rfl, listed .checkRegwen rfl, listed .checkTimeout rfl,
    ignored .checkTriggerRegwen rfl, ignored .checkTrigger rfl, ignored .checkRegwen rfl, ignored .checkTimeout rfl⟩

/-! ### STATUS and ERR_CODE (spec/46_registers.md R305, R307) -/

/-- A bit of a word OR-ed together from masks. -/
theorem getLsbD_foldl_or {ι : Type} {w : Nat} (mask : ι → BitVec w) (l : List ι) (v : BitVec w) (b : Nat) :
    (l.foldl (fun v i => v ||| mask i) v).getLsbD b = (v.getLsbD b || l.any fun i => (mask i).getLsbD b) := by
  induction l generalizing v with
  | nil => simp
  | cons i l ih => rw [List.foldl_cons, ih, BitVec.getLsbD_or, List.any_cons, Bool.or_assoc]

/-- At most one index of a range can meet a predicate that names it. -/
theorem any_range_of_unique {f : Nat → Bool} {k : Nat} (n : Nat) (unique : ∀ i, f i = true → i = k) :
    (List.range n).any f = (decide (k < n) && f k) := by
  rw [Bool.eq_iff_iff]
  simp only [List.any_eq_true, List.mem_range, Bool.and_eq_true, decide_eq_true_eq]
  constructor
  · rintro ⟨i, hi, met⟩
    obtain rfl := unique i met
    exact ⟨hi, met⟩
  · exact fun ⟨hk, met⟩ => ⟨k, hk, met⟩

/-- The part of slot `i` in STATUS. -/
def State.statusMask (s : State) (i : Nat) : Word := if s.errAt i = .noError then 0#32 else (1#32) <<< i

theorem State.status_eq (s : State) : s.status = (List.range s.cfg.nEntry).foldl (fun v i => v ||| s.statusMask i)
    (boolWord (decide (s.dai.fsm = .idle)) <<< s.cfg.nEntry) := by
  unfold State.status
  congr 1
  funext v i
  unfold State.statusMask
  split <;> simp

theorem getLsbD_one_shiftLeft (n : Nat) {b : Nat} (hb : b < 32) : ((1#32) <<< n).getLsbD b = decide (b = n) := by
  have power : ((1#32) <<< n).getLsbD b = (decide (n < 32) && decide (n = b)) := BitVec.getLsbD_twoPow n b
  rw [power]
  grind

theorem State.getLsbD_statusMask (s : State) (i : Nat) {b : Nat} (hb : b < 32) :
    (s.statusMask i).getLsbD b = (decide (b = i) && decide (s.errAt i ≠ .noError)) := by
  unfold State.statusMask
  split
  · rename_i silent
    simp [silent]
  · rename_i flagged
    rw [getLsbD_one_shiftLeft i hb, decide_eq_true flagged, Bool.and_true]

theorem getLsbD_boolWord_shiftLeft (c : Bool) (n : Nat) {b : Nat} (hb : b < 32) :
    (boolWord c <<< n).getLsbD b = (decide (b = n) && c) := by
  cases c
  · simp [boolWord]
  · simp [boolWord, getLsbD_one_shiftLeft n hb]

theorem State.getLsbD_status (s : State) {b : Nat} (hb : b < 32) : s.status.getLsbD b =
    if b < s.cfg.nEntry then decide (s.errAt b ≠ .noError)
    else decide (b = s.cfg.nEntry) && decide (s.dai.fsm = .idle) := by
  rw [State.status_eq, getLsbD_foldl_or, getLsbD_boolWord_shiftLeft _ _ hb, any_range_of_unique (k := b),
    s.getLsbD_statusMask b hb]
  · by_cases slot : b < s.cfg.nEntry
    · simp [slot, slot.ne]
    · simp [slot]
  · intro i met
    rw [s.getLsbD_statusMask i hb, Bool.and_eq_true, decide_eq_true_eq] at met
    exact met.1.symm

/-- Settles O8: slot by slot one flag, and the idle flag above them. -/
theorem statusReportsSlotsAndIdle : Obligations.StatusReportsSlotsAndIdle := fun s =>
  ⟨s.status, readReg_present s .status rfl, fun _ => s.getLsbD_status⟩

/-- The part of slot `i` in ERR_CODE_k. -/
def State.codeMask (s : State) (k i : Nat) : Word :=
  if i / 10 = k then ((s.errAt i).code.setWidth 32) <<< (3 * (i % 10)) else 0#32

theorem State.errCodeReg_eq (s : State) (k : Nat) :
    s.errCodeReg k = (List.range s.cfg.nEntry).foldl (fun v i => v ||| s.codeMask k i) 0#32 := by
  unfold State.errCodeReg
  congr 1
  funext v i
  unfold State.codeMask
  split <;> simp

/-- Bit `b` of ERR_CODE_k is in the field of slot `10 k + b / 3`. -/
theorem State.getLsbD_codeMask (s : State) (k i : Nat) {b : Nat} (hb : b < 32) : (s.codeMask k i).getLsbD b =
    (decide (b < 30 ∧ i = 10 * k + b / 3) && (s.errAt i).code.getLsbD (b % 3)) := by
  unfold State.codeMask
  split
  · rename_i own
    rw [BitVec.getLsbD_shiftLeft, BitVec.getLsbD_setWidth, decide_eq_true hb, Bool.true_and]
    by_cases field : b < 30 ∧ i = 10 * k + b / 3
    · have above : ¬ b < 3 * (i % 10) := by omega
      have position : b - 3 * (i % 10) = b % 3 := by omega
      have inside : b % 3 < 32 := by omega
      rw [decide_eq_false above, position, decide_eq_true inside, decide_eq_true field]
      rfl
    · rw [decide_eq_false field, Bool.false_and]
      obtain below | beyond : b < 3 * (i % 10) ∨ 3 ≤ b - 3 * (i % 10) := by omega
      · simp [below]
      · rw [BitVec.getLsbD_of_ge _ _ beyond, Bool.and_false, Bool.and_false]
  · rename_i other
    rw [decide_eq_false fun field => other (by omega), BitVec.getLsbD_zero, Bool.false_and]

theorem State.getLsbD_errCodeReg (s : State) (k : Nat) {b : Nat} (hb : b < 32) : (s.errCodeReg k).getLsbD b =
    (decide (b < 30 ∧ 10 * k + b / 3 < s.cfg.nEntry) && (s.errAt (10 * k + b / 3)).code.getLsbD (b % 3)) := by
  rw [State.errCodeReg_eq, getLsbD_foldl_or, BitVec.getLsbD_zero, Bool.false_or,
    any_range_of_unique (k := 10 * k + b / 3), s.getLsbD_codeMask k _ hb]
  · grind
  · intro i met
    rw [s.getLsbD_codeMask k i hb, Bool.and_eq_true, decide_eq_true_eq] at met
    exact met.1.2

/-- Settles O9: each field is the code of its slot, and no slot has another bit. -/
theorem errCodeRegistersPackSlots : Obligations.ErrCodeRegistersPackSlots := by
  intro s k hk
  refine ⟨s.errCodeReg k, readReg_present s (.errCode k) (hasReg_errCode hk), fun i hi own => ?_, fun b hb outside => ?_⟩
  · refine BitVec.eq_of_getLsbD_eq fun j hj => ?_
    have field : 10 * k + (3 * (i % 10) + j) / 3 = i := by omega
    have bit : (3 * (i % 10) + j) % 3 = j := by omega
    have inside : 3 * (i % 10) + j < 30 := by omega
    rw [BitVec.getLsbD_extractLsb', s.getLsbD_errCodeReg k (by omega), field, bit]
    simp [hj, inside, Config.nEntry, hi]
  · rw [s.getLsbD_errCodeReg k hb, decide_eq_false, Bool.false_and]
    rw [Config.nEntry]
    omega

/-! ### Interrupt, alert and test registers (spec/46_registers.md R303, R304, R306) -/

theorem getLsbD_low (v : Word) {k : Nat} (hk : k < 2) : (v.extractLsb' 0 2).getLsbD k = v.getLsbD k := by
  simp [hk]

theorem setWidth_low (v : Word) : (v.extractLsb' 0 2).setWidth 32 = v &&& 3#32 := by
  have low : v.toNat &&& 3 = v.toNat % 4 := Nat.and_two_pow_sub_one_eq_mod v.toNat 2
  have extracted : (v.extractLsb' 0 2).toNat = v.toNat % 4 := BitVec.extractLsb'_toNat 0 2 v
  refine BitVec.eq_of_toNat_eq ?_
  rw [BitVec.toNat_setWidth, extracted, BitVec.toNat_and, show (3#32).toNat = 3 from rfl, low]
  omega

/-- An operation that changes one component changes, with its outputs updated, no more than that one and the outputs. -/
theorem updateOutputs_frame_of {f : Field} (changed : s.frame [f] t) :
    s.frame [f, .outputs] (State.updateOutputs s t) :=
  changed.append (State.updateOutputs_frame s t)

theorem intrState_frame (s : State) (x : BitVec 2) : s.frame [.intrState] { s with intrState := x } := by
  intro f out
  cases f <;> simp [State.agree] at out ⊢

theorem intrEnable_frame (s : State) (x : BitVec 2) : s.frame [.intrEnable] { s with intrEnable := x } := by
  intro f out
  cases f <;> simp [State.agree] at out ⊢

theorem alertLatch_frame (s : State) (x : BitVec 2) : s.frame [.alertLatch] { s with alertLatch := x } := by
  intro f out
  cases f <;> simp [State.agree] at out ⊢

/-- Settles O12: each write is one update of two bits, and its register reads them. -/
theorem interruptRegisterWrites : Obligations.InterruptRegisterWrites := by
  intro s v
  refine ⟨⟨_, rfl, fun k hk => ?_, updateOutputs_frame_of (intrState_frame s _), readReg_present _ .intrState rfl⟩,
    _, rfl, fun k hk => getLsbD_low v hk, updateOutputs_frame_of (intrEnable_frame s _), ?_⟩
  · rw [← getLsbD_low v hk]
    simp [hk]
  · rw [← setWidth_low]
    exact readReg_present _ .intrEnable rfl

/-- Settles O13: each write is one OR of two bits. -/
theorem testRegistersSetBits : Obligations.TestRegistersSetBits := by
  intro s v
  refine ⟨⟨_, rfl, fun k hk => ?_, updateOutputs_frame_of (intrState_frame s _)⟩, readReg_present s .intrTest rfl,
    ⟨_, rfl, fun k hk => ?_, updateOutputs_frame_of (alertLatch_frame s _)⟩, readReg_present s .alertTest rfl⟩
  · rw [← getLsbD_low v hk]
    exact BitVec.getLsbD_or
  · rw [← getLsbD_low v hk]
    exact BitVec.getLsbD_or

/-! ### Operands and read locks (spec/46_registers.md R310, R316) -/

/-- An open gate lets a write through; one that leaves the lines and the latches alone emits nothing. -/
theorem gatedWrite_open (f : State → State) (opened : s.regwen = true) (intrState : (f s).intrState = s.intrState)
    (intrEnable : (f s).intrEnable = s.intrEnable) (alertLatch : (f s).alertLatch = s.alertLatch) :
    gatedWrite f s = .next (f s) :=
  (congrArg (complete s) (if_pos opened)).trans (complete_same s (f s) intrState intrEnable alertLatch)

/-- The write of a read lock, gate aside. -/
def State.readLockWritten (p : Nat) (v : Word) (s : State) : State :=
  if v.getLsbD 0 then s else { s with readEn := s.readEn.set p false }

theorem readLockWritten_frame (s : State) (p : Nat) (v : Word) : s.frame [.readEn] (s.readLockWritten p v) := by
  intro f out
  unfold State.readLockWritten
  cases f <;> split <;> simp [State.agree] at out ⊢

theorem readLockWritten_readEnAt (inTable : p < s.readEn.length) (v : Word) (q : Nat) :
    (s.readLockWritten p v).readEnAt q = (s.readEnAt q && !(decide (q = p) && !v.getLsbD 0)) := by
  unfold State.readLockWritten
  split
  · rename_i kept
    rw [kept, Bool.not_true, Bool.and_false, Bool.not_false, Bool.and_true]
  · rename_i cleared
    rw [Bool.eq_false_iff.mpr cleared]
    by_cases own : q = p
    · subst own
      simp [State.readEnAt, List.getD_eq_getElem?_getD, inTable]
    · simp [State.readEnAt, List.getD_eq_getElem?_getD, List.getElem?_set_ne (Ne.symm own), own]

theorem exec_wrReadLock (hp : p < s.cfg.nPart) (lockable : (s.cfg.desc p).readLockable = true)
    (opened : s.regwen = true) (v : Word) : exec (.wrReadLock p v) s = .next (s.readLockWritten p v) := by
  have kept := readLockWritten_frame s p v
  exact (if_pos (hasReg_readLock hp lockable)).trans (gatedWrite_open (State.readLockWritten p v) opened
    (kept .intrState (by simp)) (kept .intrEnable (by simp)) (kept .alertLatch (by simp)))

/-- A cleared read enable shuts every address but the digest's (spec/20_memory.md R74). -/
theorem isReadable_of_readLocked {a : Nat} (lockable : (s.cfg.desc p).readLockable = true)
    (locked : s.readEnAt p = false) (noDigest : s.cfg.isDigestAddress p a = false) : s.isReadable p a = false := by
  simp [State.isReadable, lockable, locked, noDigest]

/-- Settles O18: behind the open gate each write is one update. -/
theorem openGateStoresOperands : Obligations.OpenGateStoresOperands := by
  intro s v enabled idle
  have opened := s.regwen_of_open enabled idle
  refine ⟨gatedWrite_open _ opened rfl rfl rfl, gatedWrite_open _ opened rfl rfl rfl,
    gatedWrite_open _ opened rfl rfl rfl, fun p hp lockable shape => ?_⟩
  have written := readLockWritten_readEnAt (s := s) (p := p) (by omega) v
  have cfg : (s.readLockWritten p v).cfg = s.cfg := readLockWritten_frame s p v .cfg (by simp)
  refine ⟨_, exec_wrReadLock hp lockable opened v, readLockWritten_frame s p v, written, fun low a noDigest => ?_⟩
  refine isReadable_of_readLocked (by rwa [cfg]) ?_ (by rwa [cfg])
  rw [written p, low]
  simp

/-! ### The software write-enable latch (spec/46_registers.md R308) -/

theorem lcSignal_regwenSw (s : State) (n : LcSignal) (b : Bool) :
    (lcSignal n b s).dai.regwenSw = s.dai.regwenSw := by
  cases n
  case debugEn | checkBypEn => rfl
  case seedReadEn | seedWriteEn => simp [lcSignal]
  case escalateEn =>
    unfold lcSignal
    dsimp only
    split <;> simp

theorem daiPublish_regwenSw (s : State) (p : Nat) (v : DWord) (sev : Severity) :
    (s.daiPublish p v sev).dai.regwenSw = s.dai.regwenSw := by
  cases buffered : (s.cfg.desc p).buffered with
  | true => simp [daiPublish_buffered buffered]
  | false => simp [daiPublish_unbuffered buffered]

theorem daiRead_regwenSw (s : State) : (daiRead s).dai.regwenSw = s.dai.regwenSw := by
  rcases daiRead_cases s with e | ⟨p, -, -, -, ⟨-, e⟩ | ⟨-, e⟩⟩ <;> simp [e, daiPublish_regwenSw]

theorem daiWrite_regwenSw (s : State) : (daiWrite s).dai.regwenSw = s.dai.regwenSw := by
  rcases daiWrite_cases s with e | e | ⟨p, -, -, -, e⟩ <;> simp [e]

theorem daiDigest_regwenSw (s : State) : (daiDigest s).dai.regwenSw = s.dai.regwenSw := by
  rcases daiDigest_cases s with e | e | ⟨p, -, -, -, e⟩ <;> simp [e]

theorem daiDone_regwenSw (s : State) : (daiDone s).dai.regwenSw = s.dai.regwenSw := by
  unfold daiDone
  dsimp only
  split <;> simp

/-- The latch is written by its register and by RESET. -/
theorem after_regwenSw (s : State) (i : Instr) : (after s i).dai.regwenSw = s.dai.regwenSw ∨
    (∃ v, i = .wrDaiRegwen v) ∨ i = .reset := by
  cases i
  case wrDaiRegwen v => exact .inr (.inl ⟨v, rfl⟩)
  case reset => exact .inr (.inr rfl)
  all_goals refine .inl ?_
  case daiRd => exact daiGate_keeps s (fun t => t.dai.regwenSw) _ (daiRead_regwenSw s)
  case daiWr => exact daiGate_keeps s (fun t => t.dai.regwenSw) _ (daiWrite_regwenSw s)
  case daiDigest => exact daiGate_keeps s (fun t => t.dai.regwenSw) _ (daiDigest_regwenSw s)
  case wrDaiCmd v =>
    exact daiGate_keeps s (fun t => t.dai.regwenSw) _ (daiCommand_keeps s (fun t => t.dai.regwenSw) v
      (daiRead_regwenSw s) (daiWrite_regwenSw s) (daiDigest_regwenSw s))
  case lcsig n b => exact lcSignal_regwenSw s n b
  case fireDaiDone => exact daiDone_regwenSw s
  case pwrup =>
    simp only [after]
    split
    · rw [powerup_dai]
    · rfl
  case wrDaiAddress | wrDaiWdata0 | wrDaiWdata1 | wrReadLock =>
    simp only [after]
    (repeat' split) <;> rfl
  case wrd | lcprog | getkey | entropy | fireLciWordDone => simp [after]
  all_goals rfl

/-- A written 1 leaves the latch, a written 0 clears it. -/
theorem exec_wrDaiRegwen (s : State) (v : Word) : exec (.wrDaiRegwen v) s =
    .next { s with dai := { s.dai with regwenSw := s.dai.regwenSw && v.getLsbD 0 } } := by
  cases bit : v.getLsbD 0 with
  | true =>
    have ignored : exec (.wrDaiRegwen v) s = complete s s := congrArg (complete s) (if_pos bit)
    rw [ignored, complete_self, Bool.and_true]
  | false =>
    have cleared : exec (.wrDaiRegwen v) s = complete s (s.mapDai fun d => { d with regwenSw := false }) :=
      congrArg (complete s) (if_neg (Bool.eq_false_iff.mp bit))
    rw [cleared, complete_same s (s.mapDai _) rfl rfl rfl, Bool.and_false]
    rfl

theorem exec_keeps_regwenSw_clear {i : Instr} (ran : exec i s = .next t) (running : i ≠ .reset)
    (clear : s.dai.regwenSw = false) : t.dai.regwenSw = false := by
  obtain ⟨-, rfl⟩ := exec_next i s t ran
  rcases after_regwenSw s i with kept | ⟨v, rfl⟩ | reset
  · exact kept.trans clear
  · rw [State.updateOutputs_dai, after]
    split
    · exact clear
    · rfl
  · exact absurd reset running

/-- Settles O19: only the latch's own write and RESET reach it, and that write never sets it. -/
theorem regwenLatchLocksUntilReset : Obligations.RegwenLatchLocksUntilReset := by
  refine ⟨exec_wrDaiRegwen, fun i s t ran running clear => exec_keeps_regwenSw_clear ran running clear,
    fun s closed => ?_⟩
  rw [exec_rdDaiRegwen, if_neg]
  rintro ⟨enabled, idle⟩
  exact closed.elim (by simp [enabled]) (fun busy => busy idle)

end Sys2Proof.Machine
end

section
/-! The software-config window (spec/46_registers.md R320 to R322): the policy of a read, what an admitted read answers,
and the bus error of a write. -/

namespace Sys2Proof.Machine

variable {s : State} {p a : Nat}

/-! ### The policy (spec/46_registers.md R320) -/

theorem windowTarget_refused (refused : s.cfg.partitionOf a = none ∨ ∃ p, s.cfg.partitionOf a = some p ∧
    (p = s.cfg.lcPart ∨ (s.cfg.desc p).buffered = true ∨ (s.part p).fsm ≠ .idle ∨ s.cfg.isDigestAddress p a = true ∨
      s.isReadable p a = false)) : s.windowTarget a = none := by
  unfold State.windowTarget
  rcases refused with outside | ⟨p, inside, lc | buffered | busy | digest | unreadable⟩
  · rw [outside]
  · simp [inside, Config.isLc, lc]
  · simp [inside, Config.isBuffered, buffered]
  · simp [inside, busy]
  · simp [inside, digest]
  · simp [inside, unreadable]

theorem windowTarget_admitted (inside : s.cfg.partitionOf a = some p) (notLc : p ≠ s.cfg.lcPart)
    (unbuffered : (s.cfg.desc p).buffered = false) (idle : (s.part p).fsm = .idle)
    (noDigest : s.cfg.isDigestAddress p a = false) (readable : s.isReadable p a = true) :
    s.windowTarget a = some p := by
  simp [State.windowTarget, inside, Config.isLc, notLc, Config.isBuffered, unbuffered, idle, noDigest, readable]

/-! ### A read by its target and its check (spec/46_registers.md R320, R321) -/

theorem windowRead_refused (refused : s.windowTarget a = none) : windowRead a s = s.answer .busError := by
  simp [windowRead, refused]

theorem windowRead_clean (target : s.windowTarget a = some p) (clean : (s.cfg.eccCheck32 s.image a).2 = .clean) :
    windowRead a s = s.answer (.data (s.cfg.eccCheck32 s.image a).1) := by
  simp [windowRead, target, clean]

theorem windowRead_corrected (target : s.windowTarget a = some p)
    (corrected : (s.cfg.eccCheck32 s.image a).2 = .corrected) :
    windowRead a s = (s.record p .eccCorrectable).answer (.data (s.cfg.eccCheck32 s.image a).1) := by
  simp [windowRead, target, corrected]

theorem windowRead_uncorrectable (target : s.windowTarget a = some p)
    (bad : (s.cfg.eccCheck32 s.image a).2 = .uncorrectable) :
    windowRead a s = (s.windowUncorrectable p).answer .busError := by
  simp [windowRead, target, bad]

/-- Recording raises no alert where the code has none. -/
theorem State.record_frame (s : State) (slot : Nat) {code : ErrCode} (mild : alertOf code = 0#2) :
    s.frame [.err, .intrState] (s.record slot code) := by
  intro f out
  cases f <;> simp [State.agree, mild] at out ⊢

theorem State.windowUncorrectable_frame (s : State) (p : Nat) :
    s.frame [.err, .intrState, .alertLatch, .parts] (s.windowUncorrectable p) := by
  intro f out
  cases f <;> simp [State.agree] at out ⊢

/-! ### The operations -/

theorem exec_wrd {woff : Word} (aligned : woff.toNat % 4 = 0) (inWindow : woff.toNat < s.cfg.swWindowSize) :
    exec (.wrd woff) s = complete s (windowRead woff.toNat s) := if_pos ⟨aligned, inWindow⟩

/-- Settles O45: the policy names no target, and the bus error is the only answer. -/
theorem windowReadPolicyFaults : Obligations.WindowReadPolicyFaults := by
  intro s woff aligned inWindow refused
  rw [exec_wrd aligned inWindow, windowRead_refused (windowTarget_refused refused), complete_answer]

/-- Settles O46: the check of the target's word decides. -/
theorem windowReadAnswersCheckedWord : Obligations.WindowReadAnswersCheckedWord := by
  intro s woff p aligned inWindow inside notLc unbuffered idle noDigest readable
  have target := windowTarget_admitted inside notLc unbuffered idle noDigest readable
  rw [exec_wrd aligned inWindow]
  refine ⟨fun clean => ?_, fun corrected => ?_, fun bad => ?_⟩
  · rw [windowRead_clean target clean, complete_answer]
  · rw [windowRead_corrected target corrected]
    refine ⟨_, rfl, rfl, rfl, rfl, ?_⟩
    exact (((s.record_frame p rfl).append (State.answer_frame _ _)).append (State.updateOutputs_frame s _)).mono
      (by simp)
  · rw [windowRead_uncorrectable target bad]
    refine ⟨_, rfl, rfl, rfl, rfl, rfl, rfl, ?_⟩
    exact (((s.windowUncorrectable_frame p).append (State.answer_frame _ _)).append
      (State.updateOutputs_frame s _)).mono (by simp)

/-- Settles O47: a write answers the bus error before it looks at anything. -/
theorem windowWriteFaults : Obligations.WindowWriteFaults := fun s _ _ inWindow =>
  (if_pos inWindow).trans (complete_answer s .busError)

end Sys2Proof.Machine
end

section
/-! The interfaces to the other blocks (spec/47_interfaces.md): the broadcast signals and the seed locks that follow
them, the queries that answer cached values, the acknowledgement of an alert. -/

namespace Sys2Proof.Machine

variable {s t : State}

/-! ### The seed locks (spec/47_interfaces.md R341) -/

/-- Partition `q` with the locks that the signal levels `g` give a seed partition. -/
def LcSignals.locks (g : LcSignals) (q : Part) : Part :=
  { q with readLock := !g.seedReadEn, writeLock := !g.seedWriteEn }

theorem State.seedLock_eq (s : State) (p : Nat) : s.seedLock p = s.updPart p s.lcSignals.locks := rfl

/-- To lock a partition again from the same levels changes nothing. -/
theorem LcSignals.locks_locks (g : LcSignals) (q : Part) : g.locks (g.locks q) = g.locks q := rfl

theorem State.part_foldl_seedLock (ps : List Nat) (s : State) (p : Nat) : (ps.foldl State.seedLock s).part p =
    if p ∈ ps ∧ p < s.parts.length then s.lcSignals.locks (s.part p) else s.part p := by
  induction ps generalizing s with
  | nil => simp
  | cons r ps ih =>
    have first : (s.seedLock r).part p =
        if r = p ∧ p < s.parts.length then s.lcSignals.locks (s.part p) else s.part p := by
      rw [State.seedLock_eq, State.part_updPart]
    rw [List.foldl_cons, ih, State.seedLock_lcSignals, State.seedLock_parts, List.length_modify, first]
    by_cases own : r = p
    · by_cases inTable : p < s.parts.length
      · simp [own, inTable, LcSignals.locks_locks]
      · simp [inTable]
    · simp [own, Ne.symm own]

theorem State.part_updateSeedLocks (s : State) (p : Nat) : s.updateSeedLocks.part p =
    if p ∈ s.cfg.seedParts ∧ p < s.parts.length then s.lcSignals.locks (s.part p) else s.part p :=
  State.part_foldl_seedLock s.cfg.seedParts s p

theorem State.updateSeedLocks_parts_length (s : State) : s.updateSeedLocks.parts.length = s.parts.length := by
  simpa [State.caches] using congrArg List.length (updateSeedLocks_caches s)

theorem State.updateSeedLocks_frame (s : State) : s.frame [.parts] s.updateSeedLocks := by
  intro f out
  cases f <;> simp [State.agree] at out ⊢

/-! ### The broadcast signals (spec/47_interfaces.md R340) -/

theorem lcSignals_frame (s : State) (g : LcSignals) : s.frame [.lcSignals] { s with lcSignals := g } := by
  intro f out
  cases f <;> simp [State.agree] at out ⊢

/-- A signal that leaves the lines and the latches alone emits nothing. -/
theorem exec_lcsig_quiet {n : LcSignal} {b : Bool} (taken : lcSignal n b s = t) (intrState : t.intrState = s.intrState)
    (intrEnable : t.intrEnable = s.intrEnable) (alertLatch : t.alertLatch = s.alertLatch) :
    exec (.lcsig n b) s = .next t :=
  (congrArg (complete s) taken).trans (complete_same s t intrState intrEnable alertLatch)

/-- A level of ESCALATE_EN that does not rise is written and no more. -/
theorem lcSignal_escalateEn_of_not_rising {b : Bool} (level : b = false ∨ s.lcSignals.escalateEn = true) :
    lcSignal .escalateEn b s = { s with lcSignals := { s.lcSignals with escalateEn := b } } := by
  have still : ¬ (b && !s.lcSignals.escalateEn) = true := by
    rcases level with low | high
    · simp [low]
    · simp [high]
  exact if_neg still

/-- A signal that rewrites the levels to `g` and updates the seed locks. -/
theorem exec_lcsig_seed {n : LcSignal} {b : Bool} {g : LcSignals}
    (taken : lcSignal n b s = State.updateSeedLocks { s with lcSignals := g }) :
    ∃ t, exec (.lcsig n b) s = .next t ∧ t.lcSignals = g ∧ s.frame [.lcSignals, .parts] t ∧
      t.parts.length = s.parts.length ∧
      ∀ p, t.part p = if p ∈ s.cfg.seedParts ∧ p < s.parts.length then g.locks (s.part p) else s.part p :=
  ⟨_, exec_lcsig_quiet taken (by simp) (by simp) (by simp), State.updateSeedLocks_lcSignals _,
    (lcSignals_frame s g).append (State.updateSeedLocks_frame _), State.updateSeedLocks_parts_length _,
    State.part_updateSeedLocks _⟩

/-- Settles O43: each signal by what it does beside taking its level. -/
theorem signalLevels : Obligations.SignalLevels := fun _ _ =>
  ⟨exec_lcsig_quiet rfl rfl rfl rfl, exec_lcsig_quiet rfl rfl rfl rfl,
    fun level => exec_lcsig_quiet (lcSignal_escalateEn_of_not_rising level) rfl rfl rfl,
    exec_lcsig_seed rfl, exec_lcsig_seed rfl⟩

/-! ### The acknowledgement of an alert (spec/47_interfaces.md R346) -/

/-- A latch that falls is no event. -/
theorem alertEvents_of_subset (i : Fin 2) (subset : t.alertLatch.getLsbD i = true → s.alertLatch.getLsbD i = true) :
    alertEvents s t i = [] := by
  refine if_neg ?_
  rw [Bool.and_eq_true, Bool.not_eq_true']
  rintro ⟨after, before⟩
  exact absurd (subset after) (by simp [before])

theorem getLsbD_clearLatch (x : BitVec 2) (i : Nat) {k : Nat} (hk : k < 2) :
    (x &&& ~~~((1#2) <<< i)).getLsbD k = (x.getLsbD k && decide (k ≠ i)) := by
  rw [BitVec.getLsbD_and, BitVec.getLsbD_not, getLsbD_bit]
  by_cases own : i = k
  · subst own
    simp [hk]
  · simp [hk, own, Ne.symm own]

theorem exec_alertack {i : Nat} (hi : i < 2) :
    exec (.alertack i) s = .next { s with alertLatch := s.alertLatch &&& ~~~((1#2) <<< i) } := by
  have falls : ∀ k : Fin 2, alertEvents s { s with alertLatch := s.alertLatch &&& ~~~((1#2) <<< i) } k = [] :=
    fun k => alertEvents_of_subset k fun kept => by
      rw [getLsbD_clearLatch _ i k.isLt, Bool.and_eq_true] at kept
      exact kept.1
  have accepted : exec (.alertack i) s = complete s { s with alertLatch := s.alertLatch &&& ~~~((1#2) <<< i) } :=
    if_pos hi
  rw [accepted, complete, State.updateOutputs, outputChanges, falls 0, falls 1]
  simp [irqEvents, State.irqLevel]

/-- Settles O14: one latch falls, which is no event, and recording a cause sets its latch whatever it held. -/
theorem alertAckClearsOneLatch : Obligations.AlertAckClearsOneLatch := by
  intro s i hi
  refine ⟨_, exec_alertack hi, fun k hk => getLsbD_clearLatch s.alertLatch i hk, alertLatch_frame s _,
    fun slot => ⟨?_, ?_⟩⟩
  · simp [alertOf, macroAlert]
  · simp [alertOf, checkAlert]

/-! ### The queries (spec/47_interfaces.md R343, R344) -/

/-- Bit `j` of any copy in the life-cycle state word is bit `j` of the index (spec/30_encoding.md R122). -/
theorem getLsbD_lcWord (x : BitVec 5) {b : Nat} (hb : b < 30) : (lcWord x).getLsbD b = x.getLsbD (b % 5) := by
  simp only [lcWord, BitVec.getLsbD_append]
  repeat' split
  all_goals exact congrArg x.getLsbD (by omega)

theorem extractLsb'_lcWord (x : BitVec 5) {k : Nat} (hk : k < 6) : (lcWord x).extractLsb' (5 * k) 5 = x := by
  refine BitVec.eq_of_getLsbD_eq fun j hj => ?_
  have copy : (5 * k + j) % 5 = j := by omega
  rw [BitVec.getLsbD_extractLsb', getLsbD_lcWord x (by omega), copy, decide_eq_true hj, Bool.true_and]

/-- Settles O42: each query is one answer, and an answer is no other change. -/
theorem queriesAnswerFromCaches : Obligations.QueriesAnswerFromCaches := fun s =>
  ⟨⟨lcWord s.lcinfo.state, fun _ hk => extractLsb'_lcWord s.lcinfo.state hk, complete_answer s _⟩, complete_answer s _⟩

end Sys2Proof.Machine
end

section
/-! The two engines program disjoint storage (spec/70_reset_and_hazards.md R467): an operation that programs is one of the
DAI and accesses another partition than the life-cycle one, or is one of the LCI and accesses the life-cycle partition. -/

namespace Sys2Proof.Machine

variable {s : State} {i : Instr}

/-- The two engines that program storage (spec/20_memory.md R83). -/
inductive Engine
  | dai | lci

/-- The engine that an operation is a command, a request or a completion of. -/
def engineOf : Instr → Option Engine
  | .daiRd _ | .daiWr _ | .daiDigest _ | .daiNone _ | .wrDaiCmd _ | .fireDaiDone => some .dai
  | .lcprog _ _ _ | .fireLciWordDone | .fireLciFail _ => some .lci
  | _ => none

theorem engineOf_dai (h : (∃ x, i = .daiRd x) ∨ (∃ x, i = .daiWr x) ∨ (∃ x, i = .daiDigest x) ∨
    (∃ x, i = .daiNone x) ∨ (∃ v, i = .wrDaiCmd v) ∨ i = .fireDaiDone) : engineOf i = some .dai := by
  rcases h with ⟨_, rfl⟩ | ⟨_, rfl⟩ | ⟨_, rfl⟩ | ⟨_, rfl⟩ | ⟨_, rfl⟩ | rfl <;> rfl

theorem engineOf_lci (h : (∃ st cnt cb, i = .lcprog st cnt cb) ∨ i = .fireLciWordDone ∨ ∃ cb, i = .fireLciFail cb) :
    engineOf i = some .lci := by
  rcases h with ⟨_, _, _, rfl⟩ | rfl | ⟨_, rfl⟩ <;> rfl

/-- A partition that an engine may access: the LCI the life-cycle partition, the DAI each of the others. -/
def Engine.serves (c : Config) (p : Nat) : Engine → Prop
  | .dai => p ≠ c.lcPart
  | .lci => p = c.lcPart

/-- A digest commit in service is for another partition than the life-cycle one (spec/42_dai.md R215). -/
theorem State.EngineInv.digest_part_ne (h : s.EngineInv) (waiting : s.dai.fsm = .digestWait) {p : Nat}
    (served : s.dai.part = some p) : p ≠ s.cfg.lcPart := by
  obtain ⟨q, hq, -, notLc, -⟩ := h.daiPart (by rw [waiting]; rfl)
  exact Option.some.inj (hq.symm.trans served) ▸ notLc

/-- Storage is kept, or the bytes of one access are programmed, by an operation of the engine that serves its
partition. -/
theorem after_image_engine (htable : s.cfg.partTableOk = true) (h4 : aligned4 s.cfg) (hw : 0 < s.cfg.lcWords)
    (hd : s.image.data.wf = true) (hc : s.image.ecc.wf = true) (h : s.EngineInv) (i : Instr) :
    (after s i).image = s.image ∨ ∃ e p a n, engineOf i = some e ∧ e.serves s.cfg p ∧ s.Access p a n ∧
      sameOutside a n s.image (after s i).image := by
  rcases after_image s i with kept | ⟨write, -, p, target, notLc, accepted, written⟩ |
    ⟨fired, waiting, p, served, committed⟩ | ⟨request, -, k, v, word, programmed⟩
  · exact .inl kept
  · refine .inr ⟨.dai, p, _, _, engineOf_dai ?_, notLc, .daiWrite target accepted rfl rfl, ?_⟩
    · exact .inr (write.imp_right fun command => .inr (.inr (.inl command)))
    · exact written ▸ (daiProgram_orsBits s p _ hd hc).1.2.2.2
  · have access : s.Access p _ 8 := .digestSlot waiting served rfl rfl
    have even := (access.even htable h4 h).1
    refine .inr ⟨.dai, p, _, 8, fired ▸ rfl, h.digest_part_ne waiting served, access, ?_⟩
    exact committed ▸ (program64_orsBits s.cfg s.image _ _ even hd hc).2.2.2
  · refine .inr ⟨.lci, s.cfg.lcPart, _, 2, engineOf_lci (request.imp_right .inl), rfl,
      .lcWords rfl k 1 rfl rfl (by omega), ?_⟩
    exact programmed ▸ program16_same s.cfg s.image _ v hd hc

/-- An operation of an engine changes no byte and no code outside the partitions that the engine serves. -/
theorem after_image_outside (htable : s.cfg.partTableOk = true) (h4 : aligned4 s.cfg) (hw : 0 < s.cfg.lcWords)
    (hd : s.image.data.wf = true) (hc : s.image.ecc.wf = true) (h : s.EngineInv) {e : Engine}
    (engine : engineOf i = some e) {k : Nat}
    (outside : ∀ p, p < s.cfg.nPart → e.serves s.cfg p → ¬ inPart s.cfg p k) :
    (after s i).image.data.get k = s.image.data.get k ∧
      (after s i).image.ecc.get (k / 2) = s.image.ecc.get (k / 2) := by
  rcases after_image_engine htable h4 hw hd hc h i with kept | ⟨e', p, a, n, engine', serves, access, same⟩
  · exact ⟨by rw [kept], by rw [kept]⟩
  · obtain rfl : e = e' := Option.some.inj (engine.symm.trans engine')
    exact sameOutside_granules same (access.even htable h4 h) fun inside =>
      outside p (access.part_lt htable h) serves (access.inPart htable h4 h inside)

/-- Settles O58: the life-cycle partition is disjoint from each partition that the DAI serves, and the only one that the
LCI serves. -/
theorem enginesTouchDisjointStorage : Obligations.EnginesTouchDisjointStorage := by
  intro i s t htable h4 hw hd hc h hexec
  obtain ⟨-, rfl⟩ := exec_next i s t hexec
  refine ⟨fun dai k inLc => ?_, fun lci k notInLc => ?_⟩
  · refine after_image_outside htable h4 hw hd hc h (engineOf_dai dai) fun p inTable notLc => ?_
    exact parts_disjoint s.cfg htable _ p k (lcPart_lt s.cfg htable) inTable (Ne.symm notLc) inLc
  · refine after_image_outside htable h4 hw hd hc h (engineOf_lci lci) fun p _ isLc => ?_
    exact isLc ▸ notInLc

end Sys2Proof.Machine
end

section
/-! A block that is closed (spec/60_exceptions.md R425, spec/70_reset_and_hazards.md R453): what it answers while its DAI,
or every partition, is out of Idle. -/

namespace Sys2Proof.Machine

variable {s : State}

theorem exec_wrDaiCmd_closed (busy : s.dai.fsm ≠ .idle) (v : Word) : exec (.wrDaiCmd v) s = .next s :=
  complete_daiGate_closed _ fun opened => busy (s.regwen_iff.mp opened).2

/-- Every window read faults while no partition of the table is Idle. -/
theorem exec_wrd_closed (closed : ∀ p, p < s.cfg.nPart → (s.part p).fsm ≠ .idle) {woff : Word}
    (aligned : woff.toNat % 4 = 0) (inWindow : woff.toNat < s.cfg.swWindowSize) :
    exec (.wrd woff) s = .next (s.answer .busError) := by
  refine windowReadPolicyFaults s woff aligned inWindow ?_
  cases found : s.cfg.partitionOf woff.toNat with
  | none => exact .inl rfl
  | some p => exact .inr ⟨p, rfl, .inr (.inr (.inl (closed p (partitionOf_some _ _ _ found).1)))⟩

theorem exec_getkey_invalid {k : Nat} {kt : KeyType} (listed : s.cfg.keyTypes[k]? = some kt)
    (invalid : s.keyValid kt.seedPart = false) :
    ∃ u seed nonce, exec (.getkey k) s = .next u ∧ u.answers = s.answers ++ [.key seed nonce false] := by
  obtain ⟨u, runs, answers, -⟩ := keyRequestConsumesEntropy s k kt _ listed rfl
  rw [State.keyValid] at invalid
  exact ⟨u, _, _, runs, by rw [answers, invalid]⟩

end Sys2Proof.Machine
end

section
/-! Escalation (spec/60_exceptions.md R425): the state that the rise of ESCALATE_EN leaves. -/

namespace Sys2Proof.Machine

variable {s : State}

/-- Recording in every slot leaves the code in each. -/
theorem State.recordAll_err_range {n : Nat} (slots : s.err.length = n) (c : ErrCode) :
    (State.recordAll (List.range n) c s).err = List.replicate n c := by
  refine List.eq_replicate_iff.mpr ⟨(State.recordAll_length s _ c).trans slots, fun code listed => ?_⟩
  obtain ⟨j, hj, rfl⟩ := List.getElem_of_mem listed
  have inSlots : j < s.err.length := by rwa [State.recordAll_length] at hj
  calc (State.recordAll (List.range n) c s).err[j]
      = (State.recordAll (List.range n) c s).errAt j := (List.getD_eq_getElem _ _ hj).symm
    _ = c := by
      rw [State.errAt_recordAll]
      exact if_pos ⟨List.mem_range.mpr (slots ▸ inSlots), inSlots⟩

theorem State.escalate_err (slots : s.err.length = s.cfg.nEntry) :
    s.escalate.err = List.replicate s.cfg.nEntry .fsmState := by
  refine State.recordAll_err_range ?_ .fsmState
  exact slots

/-- There are slots, so FsmStateError is recorded and raises its interrupt and its alert. -/
theorem State.escalate_flags (s : State) :
    s.escalate.intrState = s.intrState ||| 2#2 ∧ s.escalate.alertLatch = s.alertLatch ||| 2#2 := by
  have slots : List.range s.cfg.nEntry = 0 :: (List.range (s.cfg.nPart + 1)).map (· + 1) := List.range_succ_eq_map
  rw [State.escalate, slots]
  exact State.recordAll_flags _ 0 _ .fsmState

theorem State.escalate_frame (s : State) :
    s.frame [.dai, .lci, .parts, .err, .intrState, .alertLatch] s.escalate := by
  intro f out
  cases f <;> simp [State.agree] at out ⊢

theorem State.part_escalate_fsm (s : State) {p : Nat} (hp : p < s.parts.length) : (s.escalate.part p).fsm = .error := by
  simp [State.part, List.getD_eq_getElem?_getD, hp]

/-- The state that the rise of ESCALATE_EN leaves before its outputs are updated. -/
def State.risen (s : State) : State :=
  State.escalate { s with lcSignals := { s.lcSignals with escalateEn := true } }

theorem exec_lcsig_rise (low : s.lcSignals.escalateEn = false) :
    exec (.lcsig .escalateEn true) s = .next (State.updateOutputs s s.risen) :=
  congrArg (complete s) (if_pos (by rw [low]; rfl))

theorem State.risen_frame (s : State) :
    s.frame [.lcSignals, .dai, .lci, .parts, .err, .intrState, .alertLatch] s.risen :=
  (lcSignals_frame s _).append (State.escalate_frame _)

/-- Settles O44: the rise leaves the escalated state, in which each unit finds its FSM in Error. -/
theorem escalationForcesError : Obligations.EscalationForcesError := by
  intro s low slots table
  obtain ⟨intrState, alertLatch⟩ :=
    State.escalate_flags { s with lcSignals := { s.lcSignals with escalateEn := true } }
  refine ⟨State.updateOutputs s s.risen, exec_lcsig_rise low, State.escalate_lcSignals _, State.escalate_dai _,
    State.escalate_lci _, State.escalate_parts _, State.escalate_err slots, intrState, alertLatch,
    (s.risen_frame.append (State.updateOutputs_frame s _)).mono (by simp), ?_⟩
  set t := State.updateOutputs s s.risen
  have dai : t.dai.fsm = .error := congrArg Dai.fsm (State.escalate_dai _)
  have lci : t.lci.fsm = .error := congrArg Lci.fsm (State.escalate_lci _)
  have cfg : t.cfg = s.cfg := State.escalate_cfg _
  have parts : ∀ p, p < t.cfg.nPart → (t.part p).fsm = .error := fun p inTable =>
    State.part_escalate_fsm _ (by rwa [cfg, ← table] at inTable)
  refine ⟨exec_wrDaiCmd_closed (by simp [dai]), exec_pwrup_ignored (by simp [dai]), fun woff aligned inWindow => ?_,
    fun st cnt cb programmable counted => ?_, fun k kt listed inTable => ?_⟩
  · exact exec_wrd_closed (fun p inTable => by simp [parts p inTable]) aligned inWindow
  · exact (lcprogAnswers t st cnt cb programmable counted).2.1 lci
  · exact exec_getkey_invalid listed (by simp [State.keyValid, parts _ inTable])

end Sys2Proof.Machine
end

section
/-! The device reset (spec/70_reset_and_hazards.md R450, R453): the reset values, what is emitted, and the block it leaves
closed until power-up. -/

namespace Sys2Proof.Machine

/-- The state after RESET: that of a new device over the same storage, and the events of the reset behind those before
it. -/
def State.afterReset (s : State) : State :=
  { State.constructed s.cfg s.image s.backing with
    inbox := s.inbox, answers := s.answers, draws := s.draws
    outputs := s.outputs ++ (if 0 < s.cfg.entropyCap then [.entropyReq] else []) ++ outputChanges s s.resetDevice }

theorem exec_reset (s : State) : exec .reset s = .next s.afterReset := by
  have reset : exec .reset s = .next (State.updateOutputs s s.resetDevice) := rfl
  rw [reset, State.updateOutputs, resetDevice_eq_constructed, State.afterReset, resetDevice_eq_constructed]

theorem State.afterReset_parts_length (s : State) : s.afterReset.parts.length = s.cfg.nPart :=
  (constructed_shapeInv s.cfg s.image s.backing).parts

theorem State.part_afterReset (s : State) {p : Nat} (hp : p < s.cfg.nPart) :
    s.afterReset.part p = resetPart s.cfg p := part_of_resetParts s.cfg rfl hp

/-- No partition is locked, and none outside the table reads as locked (log 27). -/
theorem State.part_afterReset_locked (s : State) (p : Nat) : (s.afterReset.part p).locked = false := by
  by_cases inTable : p < s.cfg.nPart
  · rw [s.part_afterReset inTable]
    rfl
  · have absent : s.afterReset.part p = absentPart :=
      List.getD_eq_default _ _ (s.afterReset_parts_length.trans_le (not_lt.mp inTable))
    rw [absent]
    rfl

/-- The events of a reset are the entropy request, interrupts and alerts, so no request is acknowledged. -/
theorem State.lcAck_notMem_afterReset (s : State) (cb : CallbackId) (ok : Bool) :
    .lcAck cb ok ∉ s.afterReset.outputs.drop s.outputs.length := by
  rw [State.afterReset, List.append_assoc, List.drop_left, List.mem_append]
  rintro (asked | changed)
  · split at asked <;> simp at asked
  · exact Bool.noConfusion (outputChanges_plain s s.resetDevice _ changed)

/-- Settles O50: a reset leaves the state of a new device over the kept storage, with every FSM in Reset and no
partition locked. -/
theorem resetRestoresEverything : Obligations.ResetRestoresEverything := by
  intro s
  refine ⟨s.afterReset, exec_reset s, s.afterReset_parts_length, fun p inTable => ?_, rfl, rfl, fun states => ?_, rfl,
    rfl, rfl, rfl, rfl, rfl, fun p inTable => ?_, rfl, rfl, rfl, ⟨_, rfl, outputChanges_plain s _⟩,
    s.lcAck_notMem_afterReset, rfl, rfl, rfl, rfl, rfl, rfl, ?_, ?_, ?_, ?_, ?_⟩
  · simp [s.part_afterReset inTable, resetPart]
  · exact congrArg LcStates.invalid states
  · simp [State.readEnAt, State.afterReset, State.constructed, resetReadEn, List.getD_eq_getElem?_getD, inTable]
  · exact exec_rdDaiRegwen s.afterReset
  · exact exec_wrDaiCmd_closed (by decide : DaiFsm.reset ≠ .idle)
  · exact fun st cnt cb programmable counted =>
      (lcprogAnswers s.afterReset st cnt cb programmable counted).1 (.inl rfl)
  · refine fun woff => exec_wrd_closed fun p inTable => ?_
    rw [s.part_afterReset inTable]
    exact (by decide : PartFsm.reset ≠ .idle)
  · intro k kt listed
    exact exec_getkey_invalid listed (by simp [State.keyValid, s.part_afterReset_locked])

end Sys2Proof.Machine
end
